-- ==== Sys2Proof/Word.lean ====
section
/-!
DEFINITION. The one data type of the machine: the byte (R3).
Memory cells, registers, the program counter, the stack pointer, the selector, opcodes, operand bytes, addresses
and ALU results are all 8 bits wide and unsigned.
-/

namespace Sys2Proof

/-- An 8-bit unsigned quantity, 0 to 255 (R3). Addresses and register indices are bytes too (R10, R33). -/
abbrev Byte := BitVec 8

end Sys2Proof
end

