-- ==== Sys2Proof/Syntax.lean ====
section
/-!
DEFINITION. The instruction set: one constructor per row of the opcode table (30_encoding.md R55).
-/

namespace Sys2Proof

/-- The thirteen instructions (R55). An operand is one whole unsigned byte (R56); the destination of a result is never
an operand, it is the register the selector names (R87). -/
inductive Instr where
  /-- HALT, 0x00 (R101). -/
  | halt
  /-- INIT, 0x01 (R70). -/
  | init
  /-- SET r, 0x02 (R71): `r` is a register index. -/
  | set (r : Byte)
  /-- SAVE imm, 0x04 (R72): `imm` is an immediate value. -/
  | save (imm : Byte)
  /-- MUL r0, r1, 0x05 (R88). -/
  | mul (r0 r1 : Byte)
  /-- PRN, 0x06 (R100). -/
  | prn
  /-- DIV r0, r1, 0x09 (R89): `r1` names the divisor register. -/
  | div (r0 r1 : Byte)
  /-- INC, 0x0B, a reserved entry (R110). -/
  | inc
  /-- SUB r0, r1, 0x0D (R90): `r0` names the left operand. -/
  | sub (r0 r1 : Byte)
  /-- ADD r0, r1, 0x0F (R91). -/
  | add (r0 r1 : Byte)
  /-- DEC, 0x11, a reserved entry (R111). -/
  | dec
  /-- PUSH, 0x19, a stub (R112). -/
  | push
  /-- POP, 0x1D, a stub (R113). -/
  | pop
  deriving DecidableEq, Repr

end Sys2Proof
end

