-- ==== Sys2Proof/WellFormed.lean ====
section
/-!
DEFINITION. Which instructions are well formed, and the range check on numbers that come from outside as unbounded
integers (a poke's arguments, an assembler's operands).
-/

namespace Sys2Proof

/-- Every instruction is well formed: "There is no operand value that makes an instruction illegal" (R56), and the
width of an operand is in its type. One arm per constructor, so that a new instruction must be judged here. -/
def Instr.wellFormed : Instr → Bool
  | .halt => true
  | .init => true
  | .set _ => true
  | .save _ => true
  | .mul _ _ => true
  | .prn => true
  | .div _ _ => true
  | .inc => true
  | .sub _ _ => true
  | .add _ _ => true
  | .dec => true
  | .push => true
  | .pop => true

/-- Whether a number from outside fits in a byte (R33: an address or value outside 0 to 255 is refused, never
wrapped). -/
def fitsByte (n : Nat) : Bool := decide (n < 256)

end Sys2Proof
end

