-- ==== Sys2Proof/Decode.lean ====
section
/-!
DEFINITION. The opcode map, the decoder and the encoder (30_encoding.md R50 to R59).
The length of an instruction comes from the table and in no other way (R54, C6).
-/

namespace Sys2Proof

/-- The thirteen entries of the opcode map (R55). -/
inductive Opcode where
  | halt | init | set | save | mul | prn | div | inc | sub | add | dec | push | pop
  deriving DecidableEq, Repr

/-- The three instruction formats (R51, R52, R53). -/
inductive EncFormat where
  | f1 | f2 | f3
  deriving DecidableEq, Repr

/-- The opcode byte of each entry (R55). -/
def Opcode.byte : Opcode → Byte
  | .halt => 0x00
  | .init => 0x01
  | .set => 0x02
  | .save => 0x04
  | .mul => 0x05
  | .prn => 0x06
  | .div => 0x09
  | .inc => 0x0B
  | .sub => 0x0D
  | .add => 0x0F
  | .dec => 0x11
  | .push => 0x19
  | .pop => 0x1D

/-- The entries in the order of R55. -/
def Opcode.all : List Opcode :=
  [.halt, .init, .set, .save, .mul, .prn, .div, .inc, .sub, .add, .dec, .push, .pop]

/-- The dispatcher's first half (R121): the entry an opcode byte has, if it has one. Every other byte is an unknown
opcode (R57). -/
def Opcode.ofByte? (b : Byte) : Option Opcode :=
  Opcode.all.find? (fun op => op.byte == b)

/-- The format of each entry (R55). That INC and DEC have format F1 is the spec's decision D5 (R58), log entry 1. -/
def Opcode.format : Opcode → EncFormat
  | .halt => .f1
  | .init => .f1
  | .set => .f2
  | .save => .f2
  | .mul => .f3
  | .prn => .f1
  | .div => .f3
  | .inc => .f1
  | .sub => .f3
  | .add => .f3
  | .dec => .f1
  | .push => .f1
  | .pop => .f1

/-- How many operand bytes a format has (R51 to R53). -/
def EncFormat.operandCount : EncFormat → Nat
  | .f1 => 0
  | .f2 => 1
  | .f3 => 2

/-- The length of an instruction in bytes (R50, R54). -/
def Opcode.length (op : Opcode) : Nat := 1 + op.format.operandCount

/-- How many bytes a step reads when it finds this byte at `pc`: the format's bytes, or only the opcode where the
opcode is unknown (R37, R62). -/
def bytesRead (b : Byte) : Nat :=
  match Opcode.ofByte? b with
  | some op => op.length
  | none => 1

/-- Why a list of bytes is no instruction. -/
inductive DecodeError where
  /-- There is no byte at all. -/
  | noBytes
  /-- The first byte has no entry in the opcode map (R57). -/
  | unknownOpcode (b : Byte)
  /-- The list ends before the operands of this entry do. A step never sees it: its fetch reads the whole format. -/
  | missingOperand (op : Opcode)
  deriving DecidableEq, Repr

/-- Takes an entry's operand bytes, in address order: the first is `r`, `imm` or the left operand `r0`, the second the
right operand `r1` (R35, R52, R53, R56). -/
def decodeOperands : Opcode → List Byte → Except DecodeError (Instr × List Byte)
  | .halt, rest => .ok (.halt, rest)
  | .init, rest => .ok (.init, rest)
  | .set, r :: rest => .ok (.set r, rest)
  | .set, [] => .error (.missingOperand .set)
  | .save, imm :: rest => .ok (.save imm, rest)
  | .save, [] => .error (.missingOperand .save)
  | .mul, r0 :: r1 :: rest => .ok (.mul r0 r1, rest)
  | .mul, [_] => .error (.missingOperand .mul)
  | .mul, [] => .error (.missingOperand .mul)
  | .prn, rest => .ok (.prn, rest)
  | .div, r0 :: r1 :: rest => .ok (.div r0 r1, rest)
  | .div, [_] => .error (.missingOperand .div)
  | .div, [] => .error (.missingOperand .div)
  | .inc, rest => .ok (.inc, rest)
  | .sub, r0 :: r1 :: rest => .ok (.sub r0 r1, rest)
  | .sub, [_] => .error (.missingOperand .sub)
  | .sub, [] => .error (.missingOperand .sub)
  | .add, r0 :: r1 :: rest => .ok (.add r0 r1, rest)
  | .add, [_] => .error (.missingOperand .add)
  | .add, [] => .error (.missingOperand .add)
  | .dec, rest => .ok (.dec, rest)
  | .push, rest => .ok (.push, rest)
  | .pop, rest => .ok (.pop, rest)

/-- Reads one instruction from the front of a list of bytes and gives the rest of the list, or says by name why there
is none (R50 to R59). -/
def decode : List Byte → Except DecodeError (Instr × List Byte)
  | [] => .error .noBytes
  | b :: rest =>
    match Opcode.ofByte? b with
    | none => .error (.unknownOpcode b)
    | some op => decodeOperands op rest

/-- The opcode-map entry of an instruction. -/
def Instr.opcode : Instr → Opcode
  | .halt => .halt
  | .init => .init
  | .set _ => .set
  | .save _ => .save
  | .mul _ _ => .mul
  | .prn => .prn
  | .div _ _ => .div
  | .inc => .inc
  | .sub _ _ => .sub
  | .add _ _ => .add
  | .dec => .dec
  | .push => .push
  | .pop => .pop

/-- The operand bytes of an instruction, in address order (R52, R53). -/
def Instr.operandBytes : Instr → List Byte
  | .halt => []
  | .init => []
  | .set r => [r]
  | .save imm => [imm]
  | .mul r0 r1 => [r0, r1]
  | .prn => []
  | .div r0 r1 => [r0, r1]
  | .inc => []
  | .sub r0 r1 => [r0, r1]
  | .add r0 r1 => [r0, r1]
  | .dec => []
  | .push => []
  | .pop => []

/-- The bytes of an instruction in address order, opcode first (R35, R51 to R53). -/
def encode (i : Instr) : List Byte := i.opcode.byte :: i.operandBytes

/-- The bytes of an opcode-table word: bit 0 is the least significant bit of the first byte, a later byte's bits count
on from it, and every bit above `nbits` is 0. Three bytes, the longest instruction (R50). -/
def tableWordBytes (nbits w : Nat) : List Byte :=
  [BitVec.ofNat 8 (w % 2 ^ nbits), BitVec.ofNat 8 (w % 2 ^ nbits / 256), BitVec.ofNat 8 (w % 2 ^ nbits / 65536)]

/-- The instruction the decoder reads from an opcode-table word. -/
def decodeTableWord (nbits w : Nat) : Option Instr :=
  match decode (tableWordBytes nbits w) with
  | .ok (i, _) => some i
  | .error _ => none

end Sys2Proof
end

