-- ==== Sys2Proof/Machine/Alu.lean ====
section
/-!
DEFINITION. The six ALU primitives (41_arithmetic.md R80 to R86): pure functions of byte values. Each computes exactly
on integers and then reduces modulo 256.
-/

namespace Sys2Proof.Machine

/-- Reduction modulo 256, also of a negative number (00_scope.md section 5; R11). -/
def narrow (n : Int) : Byte := BitVec.ofInt 8 n

/-- `add(a, b) = (a + b) mod 256` (R80). -/
def Alu.add (a b : Byte) : Byte := narrow ((a.toNat : Int) + b.toNat)

/-- `sub(a, b) = (a - b) mod 256` (R81). -/
def Alu.sub (a b : Byte) : Byte := narrow ((a.toNat : Int) - b.toNat)

/-- `mul(a, b) = (a * b) mod 256` (R82). -/
def Alu.mul (a b : Byte) : Byte := narrow ((a.toNat : Int) * b.toNat)

/-- `div(a, b)` (R83): none signals the divide-by-zero condition; otherwise the unsigned quotient. The zero test comes
first. -/
def Alu.div (a b : Byte) : Option Byte :=
  if b.toNat = 0 then none else some (narrow ((a.toNat / b.toNat : Nat) : Int))

/-- `inc(a) = (a + 1) mod 256` (R84). -/
def Alu.inc (a : Byte) : Byte := narrow ((a.toNat : Int) + 1)

/-- `dec(a) = (a - 1) mod 256` (R85). -/
def Alu.dec (a : Byte) : Byte := narrow ((a.toNat : Int) - 1)

/-- `n` applications of `inc`: how a program counter advances and how an operand address is formed (R15, R43). -/
def Alu.incBy : Nat → Byte → Byte
  | 0, a => a
  | n + 1, a => Alu.incBy n (Alu.inc a)

end Sys2Proof.Machine
end

