-- ==== Sys2Proof/Config.lean ====
section
/-!
DEFINITION. The parameters of the machine (00_scope.md R4) and their values for this hardware.
There is no free value: the spec leaves no result open (93_implementation_defined.md, closing paragraph of part 1).
-/

namespace Sys2Proof

/-- What opcodes 0x0B and 0x11 do (R115, U1): step the program counter, or count as unknown opcodes. -/
inductive ReservedIncDec where
  | pcStep
  | invalid
  deriving DecidableEq, Repr

/-- What opcodes 0x19 and 0x1D do (R115, U2): the stated stub, or genuine stack operations, to which no source gives
a meaning and which a model must refuse. -/
inductive StackOps where
  | stub
  | genuine
  deriving DecidableEq, Repr

/-- `RESERVED_INC_DEC` = `pc_step`: the spec's decision D5 (R4, R110, R111). Log entry 1. UNVERIFIED against the
original machine. -/
def Config.reservedIncDec : ReservedIncDec := .pcStep

/-- `STACK_OPS` = `stub`: the behaviour the opcode table states (R4, R112, R113, D6). Log entry 2. -/
def Config.stackOps : StackOps := .stub

/-- `PC_RESET` (R4, R171). -/
def Config.pcReset : Byte := 0

/-- `SP_RESET` (R4, R16, C1). -/
def Config.spReset : Byte := 255

/-- `CUR_RESET` (R4, R26): the spec's decision D4. Log entry 4. -/
def Config.curReset : Byte := 0

/-- `STEP_INTERVAL` (R4, R128, D14): the time between ticks, left open by the spec. It has no value here and no
definition reads it: "no rule depends on it". -/
opaque Config.stepInterval : Nat

end Sys2Proof
end

