-- ==== Sys2Proof/Machine/State.lean ====
section
/-!
DEFINITION. The whole state of the machine (10_state.md section 1: "The complete state of the machine is the table of
section 1", R27), its value at reset, and the reasons a transaction can be turned away.
-/

namespace Sys2Proof.Machine

/-- Why the machine last stopped (R22). The five values and their codes are the spec's decision D7, log entry 5. -/
inductive Reason where
  /-- NONE: never stopped since reset, or running. -/
  | none
  /-- HALT: the HALT instruction. -/
  | halt
  /-- INVALID_INSTRUCTION: an unknown opcode. -/
  | invalidInstruction
  /-- DIVIDE_BY_ZERO: a DIV whose right operand register holds 0. -/
  | divideByZero
  /-- EXTERNAL_STOP: the host called `stop()` while running. -/
  | externalStop
  deriving DecidableEq, Repr

/-- The two fatal conditions (R150), which are also the two kinds of report (R138). -/
inductive Condition where
  /-- InvalidInstruction (R151). -/
  | invalidInstruction
  /-- DivideByZero (R152). -/
  | divideByZero
  deriving DecidableEq, Repr

/-- One record of the report trace (R138; its contents are the spec's decision D9, log entry 6). -/
structure Report where
  /-- Which condition was raised. -/
  kind : Condition
  /-- The address of the offending opcode. -/
  pc : Byte
  /-- The byte fetched there. -/
  opcode : Byte
  deriving DecidableEq, Repr

/-- Memory: a list of (address, byte) pairs, addresses rising, none equal to what an unlisted address reads as. -/
abbrev Memory := List Host.Cell

/-- The machine's state (10_state.md section 1). -/
structure State where
  /-- The general registers `x[0]` to `x[255]` (R10). -/
  regs : Vector Byte 256
  /-- The program counter (R14). -/
  pc : Byte
  /-- The stack pointer, which no instruction reads or writes (R16). -/
  sp : Byte
  /-- The current-register selector (R18). -/
  cur : Byte
  /-- The scheduler's active flag (R21). -/
  run : Bool
  /-- The halted-status reason (R22). -/
  reason : Reason
  /-- The 256-byte private memory (R30). -/
  mem : Memory
  /-- The output trace: the bytes PRN has emitted, oldest first (R23). -/
  out : List Byte
  /-- The report trace: one record per fatal condition, oldest first (R23). -/
  reports : List Report
  deriving DecidableEq, Repr

/-- What an unlisted address reads as: the reset content of memory, 0 (R26, R31). -/
def Memory.unlisted : Byte := 0

/-- The machine right after construction (R26, R170). Every value is stated by the spec; `cur`, `run`, `reason`, `out`
and `reports` are marked there as its own decisions (log entries 4, 5, 6). -/
def State.reset : State where
  regs := Vector.replicate 256 0
  pc := Config.pcReset
  sp := Config.spReset
  cur := Config.curReset
  run := false
  reason := .none
  mem := []
  out := []
  reports := []

/-- The reasons a step can stop with a fault: there are none. The machine's two fatal conditions are next states
(R153), and no access can be outside the address space (R33). Nobody raises a fault; that is safe, for a fault would be
a behaviour the spec does not give (U4: "Never a machine fault"). Log entry 9. -/
inductive Fault where
  deriving DecidableEq, Repr

/-- The reasons a transaction is refused. -/
inductive Refusal where
  /-- Raised by exec's arm for an instruction that has no meaning yet. Safe. No arm raises it. -/
  | notModelled (mnemonic : String)
  /-- Raised by PUSH and POP if `STACK_OPS` were `genuine`: no source gives those semantics and R115 says to refuse
  the option. Safe. Unreachable with this hardware's value, `stub`. -/
  | genuineStack
  /-- Raised by a poke whose address or value is outside 0 to 255 (R33, D16, U4). Safe. No instruction raises it. -/
  | pokeOutOfRange (address value : Nat)
  /-- Raised by a poke while the machine runs, which the host must not do and for which the spec defines no behaviour
  (R136, D12, U8; log entry 8). Safe. No instruction raises it. -/
  | pokeWhileRunning
  deriving DecidableEq, Repr

end Sys2Proof.Machine
end

