-- ==== Sys2Proof/Machine/Flags.lean ====
section
/-!
DEFINITION. The machine's status. There are no arithmetic flags, condition codes or predicates: "no carry, overflow,
zero, sign or borrow bit" (R24), so no instruction computes one. The only status is the scheduler's flag `run` and the
halted-status `reason` (R21, R22), and this file holds every way they change.
-/

namespace Sys2Proof.Machine

/-- The 3-bit code of a reason (R22, R154; the numbers are the spec's decision D7, log entry 5). -/
def Reason.code : Reason → BitVec 3
  | .none => 0
  | .halt => 1
  | .invalidInstruction => 2
  | .divideByZero => 3
  | .externalStop => 4

/-- The reason a fatal condition records (R151, R152). -/
def Condition.reason : Condition → Reason
  | .invalidInstruction => .invalidInstruction
  | .divideByZero => .divideByZero

/-- The internal stop `halt(r)` (R126): `run <- 0; reason <- r`, whatever `run` was. -/
def State.halt (s : State) (r : Reason) : State := { s with run := false, reason := r }

/-- The host's `start()` (R124): `if run == 0 then (run <- 1; reason <- NONE)`. It is also the only way on after a
fatal condition: it restores nothing, for nothing was saved (R158). That it clears `reason` is the spec's decision D8. -/
def State.start (s : State) : State :=
  if s.run then s else { s with run := true, reason := .none }

/-- The host's `stop()` (R125): `if run == 1 then (run <- 0; reason <- EXTERNAL_STOP)`. What it records is the spec's
decision D8. -/
def State.stop (s : State) : State :=
  if s.run then { s with run := false, reason := .externalStop } else s

end Sys2Proof.Machine
end

