-- ==== Sys2Proof/Machine/Ops.lean ====
section
/-!
DEFINITION. The named operations over memory, registers and traces, and the taking of a fatal condition (R153). The
way on after a condition is the host's `start()` (R158), `State.start` in Flags.lean: there is no return instruction.
-/

namespace Sys2Proof.Machine

/-- The byte listed first for a key, or what an unlisted address reads as. -/
def Memory.lookup : Memory → Nat → Byte
  | [], _ => Memory.unlisted
  | (k, v) :: rest, a => if k = a then v else Memory.lookup rest a

/-- The list without a key. -/
def Memory.erase (m : Memory) (a : Nat) : Memory := m.filter (fun c => c.1 != a)

/-- Puts an entry before the first larger key. -/
def Memory.insert : Memory → Nat → Byte → Memory
  | [], a, v => [(a, v)]
  | (k, w) :: rest, a, v =>
    if a < k then (a, v) :: (k, w) :: rest else (k, w) :: Memory.insert rest a v

/-- `MemRead(addr, 1)` (R31). -/
def Memory.read (m : Memory) (addr : Byte) : Byte := m.lookup addr.toNat

/-- `MemWrite(addr, 1, v)` (R32). Writing what an unlisted address reads as removes the entry. -/
def Memory.write (m : Memory) (addr v : Byte) : Memory :=
  if v = Memory.unlisted then m.erase addr.toNat else (m.erase addr.toNat).insert addr.toNat v

/-- The canonical form: addresses strictly rising, all below 256 (R30), no entry equal to what an unlisted address
reads as. -/
abbrev Memory.wf (m : Memory) : Prop :=
  m.Pairwise (fun c d => c.1 < d.1) ∧ ∀ c ∈ m, c.1 < 256 ∧ c.2 ≠ Memory.unlisted

/-- The byte at an address of the state's memory (R31). -/
def State.readMem (s : State) (addr : Byte) : Byte := s.mem.read addr

/-- The state with one memory byte changed (R32). No instruction does this (R34). -/
def State.writeMem (s : State) (addr v : Byte) : State := { s with mem := s.mem.write addr v }

/-- Stores bytes at rising addresses, which wrap modulo 256 as operand addresses do (R43). -/
def State.placeBytes : State → Byte → List Byte → State
  | s, _, [] => s
  | s, addr, b :: rest => State.placeBytes (s.writeMem addr b) (Alu.inc addr) rest

/-- Reads `x[i]` (R12). Every byte is a register index (R10, the spec's decision D2), and no index names `pc`, `sp` or
`cur` (R17, R18). -/
def State.readReg (s : State) (i : Byte) : Byte := s.regs[i.toNat]'i.isLt

/-- Writes `x[i]` (R11, R12). No register is hard-wired (R13). The reduction modulo 256 at the write boundary is in the
type of `v` (C5). -/
def State.writeReg (s : State) (i v : Byte) : State := { s with regs := s.regs.set i.toNat v i.isLt }

/-- Writes the program counter (R14). -/
def State.setPc (s : State) (a : Byte) : State := { s with pc := a }

/-- Writes the selector (R19). -/
def State.setCur (s : State) (r : Byte) : State := { s with cur := r }

/-- `Emit(v)` (R102): appends to the output trace. -/
def State.emit (s : State) (v : Byte) : State := { s with out := s.out ++ [v] }

/-- Appends to the report trace (R138). -/
def State.addReport (s : State) (r : Report) : State := { s with reports := s.reports ++ [r] }

/-- Taking a fatal condition (R153): append the report `(kind, pc, MemRead(pc, 1))`, clear `run`, record the reason;
nothing else changes and nothing is saved. -/
def State.raise (s : State) (c : Condition) : State :=
  (s.addReport ⟨c, s.pc, s.readMem s.pc⟩).halt c.reason

end Sys2Proof.Machine
end

