-- ==== Sys2Proof/Machine/Operands.lean ====
section
/-!
DEFINITION. The operand forms: the bytes a step fetches (R43, R62), the implicit register `x[cur]` (R20), the source
registers of the three-byte instructions (R87), and the movements of the program counter (R15).
-/

namespace Sys2Proof.Machine

/-- The addresses a step reads, in order: the opcode's, then the operand bytes' at `(pc + k) mod 256` (R43, R62; the
wrap is the spec's decision D3, log entry 3). An unknown opcode reads only itself. -/
def State.fetchAddrs (s : State) : List Byte :=
  (List.range (bytesRead (s.readMem s.pc))).map (fun k => Alu.incBy k s.pc)

/-- The bytes a step reads, in order (R120, R62). -/
def State.fetch (s : State) : List Byte := s.fetchAddrs.map s.readMem

/-- The value of the selected register, `x[cur]` (R20). -/
def State.selected (s : State) : Byte := s.readReg s.cur

/-- Writes the selected register, `x[cur]` (R20, R87). -/
def State.writeSelected (s : State) (v : Byte) : State := s.writeReg s.cur v

/-- Advances `pc` by `n`: `n` applications of `inc` (R15). -/
def State.advancePc (s : State) (n : Nat) : State := s.setPc (Alu.incBy n s.pc)

/-- Decrements `pc` (R15). -/
def State.retreatPc (s : State) : State := s.setPc (Alu.dec s.pc)

end Sys2Proof.Machine
end

