-- ==== Sys2Proof/Machine/Arithmetic.lean ====
section
/-!
DEFINITION. The three-byte arithmetic instructions: MUL, DIV, SUB, ADD (41_arithmetic.md part 2).
-/

namespace Sys2Proof.Machine

/-- The common behaviour of MUL, SUB and ADD (R87): both source registers are read, then `x[cur]` is written with one
ALU primitive of `x[r0]` (left) and `x[r1]` (right), then `pc` advances by 3. -/
def arithmetic (f : Byte → Byte → Byte) (r0 r1 : Byte) (s : State) : State :=
  (s.writeSelected (f (s.readReg r0) (s.readReg r1))).advancePc 3

/-- MUL r0, r1 (R88). -/
def execMul (r0 r1 : Byte) (s : State) : Host.Outcome State Fault Refusal :=
  .next (arithmetic Alu.mul r0 r1 s)

/-- DIV r0, r1 (R89): if `x[r1]` is 0, raise DivideByZero, with `x[cur]` and `pc` unchanged; otherwise as MUL with
`div`. -/
def execDiv (r0 r1 : Byte) (s : State) : Host.Outcome State Fault Refusal :=
  match Alu.div (s.readReg r0) (s.readReg r1) with
  | none => .next (s.raise .divideByZero)
  | some q => .next ((s.writeSelected q).advancePc 3)

/-- SUB r0, r1 (R90): left minus right. -/
def execSub (r0 r1 : Byte) (s : State) : Host.Outcome State Fault Refusal :=
  .next (arithmetic Alu.sub r0 r1 s)

/-- ADD r0, r1 (R91). -/
def execAdd (r0 r1 : Byte) (s : State) : Host.Outcome State Fault Refusal :=
  .next (arithmetic Alu.add r0 r1 s)

end Sys2Proof.Machine
end

