-- ==== Sys2Proof/Machine/Output.lean ====
section
/-!
DEFINITION. The output and halt instructions: PRN, HALT (42_output_and_halt.md).
-/

namespace Sys2Proof.Machine

/-- PRN (R100): `Emit(x[cur]); pc <- inc(pc)`. -/
def execPrn (s : State) : Host.Outcome State Fault Refusal :=
  .next ((s.emit s.selected).advancePc 1)

/-- HALT (R101): `run <- 0; reason <- HALT`; `pc` is not changed and no report is made (R166). -/
def execHalt (s : State) : Host.Outcome State Fault Refusal :=
  .next (s.halt .halt)

end Sys2Proof.Machine
end

