-- ==== Sys2Proof/Machine/Reserved.lean ====
section
/-!
DEFINITION. The reserved entries INC and DEC and the stack stubs PUSH and POP (43_reserved_and_stubs.md), each behind
the configuration switch R115 asks for.
-/

namespace Sys2Proof.Machine

/-- A reserved entry under a value of `RESERVED_INC_DEC` (R115): its step of the program counter, or the
InvalidInstruction condition with `pc` unchanged, as for an unknown opcode. -/
def reservedEntry (c : ReservedIncDec) (move : State → State) (s : State) : Host.Outcome State Fault Refusal :=
  match c with
  | .pcStep => .next (move s)
  | .invalid => .next (s.raise .invalidInstruction)

/-- A stack entry under a value of `STACK_OPS` (R115): the stub's step of the program counter, or a refusal, since no
source gives genuine stack semantics. -/
def stackEntry (c : StackOps) (move : State → State) (s : State) : Host.Outcome State Fault Refusal :=
  match c with
  | .stub => .next (move s)
  | .genuine => .refused .genuineStack

/-- INC (R110, the spec's decision D5): `pc <- inc(pc)`, no register incremented. -/
def execInc (s : State) : Host.Outcome State Fault Refusal :=
  reservedEntry Config.reservedIncDec (fun t => t.advancePc 1) s

/-- DEC (R111, the spec's decision D5): `pc <- dec(pc)`, no register decremented. -/
def execDec (s : State) : Host.Outcome State Fault Refusal :=
  reservedEntry Config.reservedIncDec State.retreatPc s

/-- PUSH (R112): `pc <- inc(pc)`; `sp` and memory untouched. -/
def execPush (s : State) : Host.Outcome State Fault Refusal :=
  stackEntry Config.stackOps (fun t => t.advancePc 1) s

/-- POP (R113): `pc <- dec(pc)`; `sp` and memory untouched. -/
def execPop (s : State) : Host.Outcome State Fault Refusal :=
  stackEntry Config.stackOps State.retreatPc s

end Sys2Proof.Machine
end

