-- ==== Sys2Proof/Machine/Selector.lean ====
section
/-!
DEFINITION. The selector and move instructions: INIT, SET, SAVE (40_selector_and_move.md).
-/

namespace Sys2Proof.Machine

/-- INIT (R70): `cur <- 0; pc <- inc(pc)`. -/
def execInit (s : State) : Host.Outcome State Fault Refusal :=
  .next ((s.setCur 0).advancePc 1)

/-- SET r (R71): `cur <- r; pc <- inc(inc(pc))`. -/
def execSet (r : Byte) (s : State) : Host.Outcome State Fault Refusal :=
  .next ((s.setCur r).advancePc 2)

/-- SAVE imm (R72): `x[cur] <- imm; pc <- inc(inc(pc))`. -/
def execSave (imm : Byte) (s : State) : Host.Outcome State Fault Refusal :=
  .next ((s.writeSelected imm).advancePc 2)

end Sys2Proof.Machine
end

