-- ==== Sys2Proof/Machine/Dispatch.lean ====
section
/-!
DEFINITION. The dispatcher's second half (R121): each instruction's handler. It ignores `run` (R127).
-/

namespace Sys2Proof.Machine

def exec (i : Instr) (s : State) : Host.Outcome State Fault Refusal :=
  match i with
  | .halt => Sys2Proof.Machine.execHalt s
  | .init => Sys2Proof.Machine.execInit s
  | .set r => Sys2Proof.Machine.execSet r s
  | .save imm => Sys2Proof.Machine.execSave imm s
  | .mul r0 r1 => Sys2Proof.Machine.execMul r0 r1 s
  | .prn => Sys2Proof.Machine.execPrn s
  | .div r0 r1 => Sys2Proof.Machine.execDiv r0 r1 s
  | .inc => Sys2Proof.Machine.execInc s
  | .sub r0 r1 => Sys2Proof.Machine.execSub r0 r1 s
  | .add r0 r1 => Sys2Proof.Machine.execAdd r0 r1 s
  | .dec => Sys2Proof.Machine.execDec s
  | .push => Sys2Proof.Machine.execPush s
  | .pop => Sys2Proof.Machine.execPop s

end Sys2Proof.Machine
end

