-- ==== Sys2Proof/Machine/Scheduler.lean ====
section
/-!
DEFINITION. The fetch-decode-execute step, the tick, and the host's transactions (45_step_and_scheduler.md,
46_host_interface.md).
-/

namespace Sys2Proof.Machine

/-- `Step` (R120): fetch at `pc`, decode, run the handler; a byte with no table entry raises InvalidInstruction (R151).
Defined on every state, whatever `run` holds (R127, the spec's decision D17). The fetch reads the whole format, so an
unknown opcode is the only way decoding fails. -/
def stepOnce (s : State) : Host.Outcome State Fault Refusal :=
  match decode s.fetch with
  | .ok (i, _) => exec i s
  | .error _ => .next (s.raise .invalidInstruction)

/-- `Tick` (R123): `if run == 1 then Step else (no change)`. -/
def tick (s : State) : Host.Outcome State Fault Refusal :=
  if s.run then stepOnce s else .next s

/-- `n` ticks, ending at the first that does not answer a next state (none does not, R120). -/
def runTicks : Nat → State → Host.Outcome State Fault Refusal
  | 0, s => .next s
  | n + 1, s =>
    match tick s with
    | .next t => runTicks n t
    | .fault r => .fault r
    | .refused r => .refused r

/-- `n` steps invoked back to back by a driver that stops when a step leaves a reason (R127, R128, D17). -/
def driveSteps : Nat → State → Host.Outcome State Fault Refusal
  | 0, s => .next s
  | n + 1, s =>
    match stepOnce s with
    | .next t => if t.reason = .none then driveSteps n t else .next t
    | .fault r => .fault r
    | .refused r => .refused r

/-- `Run` (R127) cut at `n` ticks: `start()`, then ticks; once `run` is 0 a tick changes nothing. `Run` need not end
(R175), so the whole loop is no function: it ends if some `n` leaves `run` clear. -/
def runFor (n : Nat) (s : State) : Host.Outcome State Fault Refusal := runTicks n s.start

/-- `poke(address, value)` (R135) given as unbounded numbers: outside 0 to 255 it is refused (R33, D16), while the
machine runs it is refused (R136, D12, log entry 8), otherwise it writes one memory cell and nothing else. -/
def poke (address value : Nat) (s : State) : Host.Outcome State Fault Refusal :=
  if fitsByte address && fitsByte value then
    if s.run then .refused .pokeWhileRunning
    else .next (s.writeMem (BitVec.ofNat 8 address) (BitVec.ofNat 8 value))
  else .refused (.pokeOutOfRange address value)

/-- The transactions that can change the core (46_host_interface.md section 1). -/
inductive Transaction where
  /-- Construction again, at any time (R140; of a live machine, the spec's decision D13). -/
  | reset
  /-- The loader's write (R135). -/
  | poke (address value : Nat)
  /-- `start()` (R124). -/
  | start
  /-- `stop()` (R125). -/
  | stop
  /-- One firing of the pacing mechanism (R123). -/
  | tick
  deriving DecidableEq, Repr

/-- The effect of one transaction; transactions are atomic and totally ordered (R122, R136). -/
def transact (e : Transaction) (s : State) : Host.Outcome State Fault Refusal :=
  match e with
  | .reset => .next State.reset
  | .poke address value => poke address value s
  | .start => .next s.start
  | .stop => .next s.stop
  | .tick => tick s

/-- What an inspection selects (R139). -/
inductive Probe where
  | mem (addr : Byte)
  | reg (i : Byte)
  | pc
  | sp
  | cur
  | run
  | reason
  deriving DecidableEq, Repr

/-- What an inspection shows. -/
inductive Shown where
  | byte (b : Byte)
  | flag (b : Bool)
  | reason (r : Reason)
  deriving DecidableEq, Repr

/-- Inspection (R139): while `run` is 0 the host reads any piece of state, without side effect. While the machine runs
the spec gives the host no such read, and the model gives none (log entry 8). -/
def inspect (p : Probe) (s : State) : Option Shown :=
  if s.run then none
  else
    match p with
    | .mem addr => some (.byte (s.readMem addr))
    | .reg i => some (.byte (s.readReg i))
    | .pc => some (.byte s.pc)
    | .sp => some (.byte s.sp)
    | .cur => some (.byte s.cur)
    | .run => some (.flag s.run)
    | .reason => some (.reason s.reason)

end Sys2Proof.Machine
end

