-- ==== Sys2Proof/Machine/Step.lean ====
section
/-!
DEFINITION. One step of the machine as the host sees it: one tick of its scheduler (R123).
-/

namespace Sys2Proof.Machine

/-- The machine's step is `Tick` (R123): while `run` is 1, one fetch-decode-execute step; while `run` is 0, nothing.
Log entry 7 says how a program comes to run from reset. -/
def step (s : State) : Host.Outcome State Fault Refusal := tick s

/-- The state with an opcode-table word placed where the next step fetches, and the scheduler started: what the loader's
pokes and the host's `start()` do (R172, log entry 7). -/
def State.withFetchWord (s : State) (nbits w : Nat) : State :=
  (s.placeBytes s.pc (tableWordBytes nbits w)).start

end Sys2Proof.Machine
end

