-- ==== Sys2Proof/Machine/Assembler.lean ====
section
/-!
DEFINITION. The assembly syntax the spec uses for its own programs (R60, the spec's decision D15). It is no part of the
machine: byte encodings are normative, the syntax is not. There are no pseudo-instructions (R61).
-/

namespace Sys2Proof


/-- The mnemonic of an opcode-map entry, in capitals (R55, R60). -/
def Opcode.mnemonic : Opcode → List Char
  | .halt => "HALT".toList
  | .init => "INIT".toList
  | .set => "SET".toList
  | .save => "SAVE".toList
  | .mul => "MUL".toList
  | .prn => "PRN".toList
  | .div => "DIV".toList
  | .inc => "INC".toList
  | .sub => "SUB".toList
  | .add => "ADD".toList
  | .dec => "DEC".toList
  | .push => "PUSH".toList
  | .pop => "POP".toList

end Sys2Proof

namespace Sys2Proof.Machine

/-- A line of source: an instruction with its operands as written, or a raw byte (`.byte v`). The numbers are not yet
checked against their range. -/
inductive SourceLine where
  | instr (op : Opcode) (operands : List Nat)
  | byte (v : Nat)
  deriving DecidableEq, Repr

/-- A line can be assembled: as many operands as the format has, each 0 to 255 (R60). -/
def SourceLine.wellFormed : SourceLine → Bool
  | .instr op operands => operands.length == op.format.operandCount && operands.all fitsByte
  | .byte v => fitsByte v

/-- The bytes of a line (the table of R60); none where the line is ill formed. -/
def SourceLine.assemble (l : SourceLine) : Option (List Byte) :=
  if l.wellFormed then
    match l with
    | .instr op operands => some (op.byte :: operands.map (BitVec.ofNat 8))
    | .byte v => some [BitVec.ofNat 8 v]
  else none

/-- The value of a digit in a base up to 16. -/
def digitValue (base : Nat) (c : Char) : Option Nat :=
  let v :=
    if '0'.toNat ≤ c.toNat ∧ c.toNat ≤ '9'.toNat then c.toNat - '0'.toNat
    else if 'a'.toNat ≤ c.toNat ∧ c.toNat ≤ 'f'.toNat then c.toNat - 'a'.toNat + 10
    else if 'A'.toNat ≤ c.toNat ∧ c.toNat ≤ 'F'.toNat then c.toNat - 'A'.toNat + 10
    else base
  if v < base then some v else none

/-- Reads digits, most significant first, on top of what was read before them. -/
def readDigits (base : Nat) : Nat → List Char → Option Nat
  | acc, [] => some acc
  | acc, c :: rest =>
    match digitValue base c with
    | some d => readDigits base (acc * base + d) rest
    | none => none

/-- A decimal or `0x` hexadecimal number (R60). -/
def readNumber : List Char → Option Nat
  | [] => none
  | '0' :: 'x' :: d :: rest => readDigits 16 0 (d :: rest)
  | ds => readDigits 10 0 ds

/-- A register operand `rN`, N decimal (R60). -/
def readRegister : List Char → Option Nat
  | 'r' :: d :: rest => readDigits 10 0 (d :: rest)
  | _ => none

/-- The pieces of a line: words, and the comma that separates operands. -/
inductive Token where
  | word (w : List Char)
  | comma
  deriving DecidableEq, Repr

/-- The word read so far, if there is one. -/
def endWord : List Char → List Token
  | [] => []
  | w => [.word w]

/-- Cuts a line into tokens; `;` starts a comment (R60). The first argument is the word being read. -/
def tokens : List Char → List Char → List Token
  | w, [] => endWord w
  | w, c :: rest =>
    if c = ';' then endWord w
    else if c = ',' then endWord w ++ .comma :: tokens [] rest
    else if c = ' ' then endWord w ++ tokens [] rest
    else tokens (w ++ [c]) rest

/-- The operands of an entry as the table of R60 writes them. -/
def readOperands (op : Opcode) (ts : List Token) : Option (List Nat) :=
  match op.format, ts with
  | .f1, [] => some []
  | .f2, [.word w] => (if op = .save then readNumber w else readRegister w).map (fun n => [n])
  | .f3, [.word a, .comma, .word b] =>
    match readRegister a, readRegister b with
    | some m, some n => some [m, n]
    | _, _ => none
  | _, _ => none

/-- Reads a line (R60): nothing on it, a source line, or none where it is not of the syntax. -/
def readLine (text : List Char) : Option (Option SourceLine) :=
  match tokens [] text with
  | [] => some none
  | .word w :: rest =>
    if w = ".byte".toList then
      match rest with
      | [.word v] => (readNumber v).map (fun n => some (.byte n))
      | _ => none
    else
      match Opcode.all.find? (fun op => op.mnemonic == w) with
      | some op => (readOperands op rest).map (fun ns => some (.instr op ns))
      | none => none
  | .comma :: _ => none

/-- The bytes of one line of text (R60); a blank or comment line has none. -/
def assembleText (text : String) : Option (List Byte) :=
  match readLine text.toList with
  | some (some l) => l.assemble
  | some none => some []
  | none => none

end Sys2Proof.Machine
end

