-- ==== Sys2Proof/Safety.lean ====
section
/-!
DEFINITION. The terms claims are stated in: what a transaction leaves unchanged, the invariant of the machine, and
which instructions do what to the program counter.
-/

namespace Sys2Proof.Machine

/-- Every byte of memory reads as before. -/
def State.SameMem (s t : State) : Prop := ∀ addr : Byte, t.readMem addr = s.readMem addr

/-- Every general register but `x[i]` reads as before. -/
def State.SameRegsBut (i : Byte) (s t : State) : Prop := ∀ j : Byte, j ≠ i → t.readReg j = s.readReg j

/-- Every general register reads as before. -/
def State.SameRegs (s t : State) : Prop := ∀ j : Byte, t.readReg j = s.readReg j

/-- The scheduler's flag and the halted-status reason are as before. -/
def State.SameStatus (s t : State) : Prop := t.run = s.run ∧ t.reason = s.reason

/-- Both traces are as before. -/
def State.SameTraces (s t : State) : Prop := t.out = s.out ∧ t.reports = s.reports

/-- What every instruction but HALT and a failing DIV leaves alone, whatever else it does: the stack pointer, memory,
the status and the report trace. -/
def State.QuietFrame (s t : State) : Prop :=
  t.sp = s.sp ∧ s.SameMem t ∧ s.SameStatus t ∧ t.reports = s.reports

/-- What a fatal condition leaves alone (R153): `pc`, `sp`, `cur`, every register, every memory byte and `out`. -/
def State.FatalFrame (s t : State) : Prop :=
  t.pc = s.pc ∧ t.sp = s.sp ∧ t.cur = s.cur ∧ s.SameRegs t ∧ s.SameMem t ∧ t.out = s.out

/-- A report agrees with the condition it records (R138, R151, R152): the opcode of a DivideByZero is DIV's, the opcode
of an InvalidInstruction is one the opcode map lacks. -/
def Report.Sound (r : Report) : Prop :=
  match r.kind with
  | .invalidInstruction => Opcode.ofByte? r.opcode = none
  | .divideByZero => r.opcode = Opcode.div.byte

/-- The invariant of the machine under its transactions. -/
structure State.Inv (s : State) : Prop where
  /-- Memory is in its canonical form. -/
  mem_wf : Memory.wf s.mem
  /-- The stack pointer is 255 for the whole life of the machine (R16). -/
  sp_eq : s.sp = 255
  /-- A running machine shows no stop reason (R22). -/
  running_none : s.run = true → s.reason = .none
  /-- A machine stopped by a fatal condition has reported it last, at the address its program counter still holds
  (R153, R154). -/
  fatal_reported : ∀ c : Condition, s.reason = c.reason → ∃ r, s.reports.getLast? = some r ∧ r.kind = c ∧ r.pc = s.pc
  /-- Every report agrees with its condition (R138). -/
  reports_sound : ∀ r ∈ s.reports, r.Sound

end Sys2Proof.Machine

namespace Sys2Proof

/-- How an instruction that completes moves the program counter (R131): by its length, back by one, or not at all. -/
def Instr.pcAfter : Instr → Byte → Byte
  | .halt, pc => pc
  | .init, pc => pc + 1
  | .set _, pc => pc + 2
  | .save _, pc => pc + 2
  | .mul _ _, pc => pc + 3
  | .prn, pc => pc + 1
  | .div _ _, pc => pc + 3
  | .inc, pc => pc + 1
  | .sub _ _, pc => pc + 3
  | .add _ _, pc => pc + 3
  | .dec, pc => pc - 1
  | .push, pc => pc + 1
  | .pop, pc => pc - 1

end Sys2Proof
end

