-- ==== Sys2Proof/Certificates/Slice0/Obligations.lean ====
section
/-!
DEFINITION. The statements for the provers, in the order of the spec's files. "The spec's decision D<n>" names a choice
the spec marks as its own (92_eei_decisions.md); a statement that rests on one cites no rule for it.
-/

open Sys2Proof Sys2Proof.Machine

/-! ## State, registers, memory -/

/-- What reset leaves (10_state.md section 10). The values of `cur`, `run`, `reason`, `out` and `reports` are the spec's
decisions D4, D7, D9, D10 (log entries 4, 5, 6). -/
def Obligations.ResetLeavesTheSpecifiedState : Prop :=
  (∀ i : Byte, State.reset.readReg i = 0) ∧ (∀ addr : Byte, State.reset.readMem addr = 0) ∧
    State.reset.pc = 0 ∧ State.reset.sp = 255 ∧ State.reset.cur = 0 ∧ State.reset.run = false ∧
    State.reset.reason = .none ∧ State.reset.out = [] ∧ State.reset.reports = []

/-- R12: a register reads as what was last written to it, else as its reset value 0. -/
def Obligations.RegisterReadGivesLastWrite : Prop :=
  (∀ (s : State) (i j v : Byte), (s.writeReg i v).readReg j = if i = j then v else s.readReg j) ∧
    ∀ i : Byte, State.reset.readReg i = 0

/-- R31: a memory byte reads as what was last written to it, else 0. -/
def Obligations.MemoryReadGivesLastWrite : Prop :=
  (∀ (s : State) (a b v : Byte), (s.writeMem a v).readMem b = if a = b then v else s.readMem b) ∧
    ∀ addr : Byte, State.reset.readMem addr = 0

/-- The canonical form of memory decides it: two canonical lists that read the same everywhere are the same list. That
memory is such a list is the model's choice (log entry 10). -/
def Obligations.CanonicalMemoriesAgreeingAreEqual : Prop :=
  ∀ m n : Memory, Memory.wf m → Memory.wf n → (∀ addr : Byte, m.read addr = n.read addr) → m = n

/-! ## Encoding -/

/-- Every instruction's bytes decode to it and leave what follows them, whatever its operands (R50 to R59). -/
def Obligations.EncodedInstructionDecodesToItself : Prop :=
  ∀ (i : Instr) (rest : List Byte), i.wellFormed = true → decode (encode i ++ rest) = .ok (i, rest)

/-- A list of bytes that decodes begins with the bytes of the instruction it decodes to. -/
def Obligations.DecodedBytesAreTheEncoding : Prop :=
  ∀ (bs rest : List Byte) (i : Instr), decode bs = .ok (i, rest) → bs = encode i ++ rest

/-- A few words written out from the encodings of R55, as opcode-table words (first byte lowest). -/
def Obligations.SampleWordsDecode : Prop :=
  decodeTableWord 8 0b00000000 = some .halt ∧ decodeTableWord 8 0b00000001 = some .init ∧
    decodeTableWord 16 0b1010010100000010 = some (.set 0xA5) ∧
    decodeTableWord 16 0b1111111100000100 = some (.save 0xFF) ∧
    decodeTableWord 24 0b000000110000001000000101 = some (.mul 2 3) ∧
    decodeTableWord 8 0b00000110 = some .prn ∧
    decodeTableWord 24 0b000000010000000000001001 = some (.div 0 1) ∧
    decodeTableWord 8 0b00001011 = some .inc ∧
    decodeTableWord 24 0b000000100000001100001101 = some (.sub 3 2) ∧
    decodeTableWord 24 0b111111111000000000001111 = some (.add 0x80 0xFF) ∧
    decodeTableWord 8 0b00010001 = some .dec ∧ decodeTableWord 8 0b00011001 = some .push ∧
    decodeTableWord 8 0b00011101 = some .pop ∧ decodeTableWord 8 0b00000011 = none

/-- A step reads exactly its format's bytes: the opcode, then the operand bytes at `(pc + 1) mod 256` and
`(pc + 2) mod 256`; an unknown opcode reads only itself. The wrap and the order are the spec's decisions D3 and D19, the
length of INC and DEC its decision D5 (log entries 1 and 3). -/
def Obligations.FetchReadsExactlyTheFormat : Prop :=
  ∀ s : State, s.fetchAddrs =
    if s.readMem s.pc = 0x02 ∨ s.readMem s.pc = 0x04 then [s.pc, s.pc + 1]
    else if s.readMem s.pc = 0x05 ∨ s.readMem s.pc = 0x09 ∨ s.readMem s.pc = 0x0D ∨ s.readMem s.pc = 0x0F then
      [s.pc, s.pc + 1, s.pc + 2]
    else [s.pc]

/-- A source line whose operands fit assembles to bytes the decoder reads back as that instruction; the syntax is the
spec's decision D15 (log entry 11). -/
def Obligations.AssembledLineDecodes : Prop :=
  ∀ (op : Opcode) (operands : List Nat) (rest : List Byte),
    (SourceLine.instr op operands).wellFormed = true →
      ∃ (bs : List Byte) (i : Instr), (SourceLine.instr op operands).assemble = some bs ∧ i.opcode = op ∧
        i.operandBytes.map BitVec.toNat = operands ∧ decode (bs ++ rest) = .ok (i, rest)

/-! ## The ALU primitives -/

/-- R80. -/
def Obligations.AddWrapsModulo256 : Prop :=
  (∀ a b : Byte, (Alu.add a b).toNat = (a.toNat + b.toNat) % 256 ∧
    (Alu.add a b).toNat = (if a.toNat + b.toNat < 256 then a.toNat + b.toNat else a.toNat + b.toNat - 256) ∧
    Alu.add a b = Alu.add b a) ∧
  (∀ a : Byte, Alu.add a 0 = a) ∧ Alu.add 200 100 = 44

/-- R81. -/
def Obligations.SubWrapsOnNegative : Prop :=
  (∀ a b : Byte, ((Alu.sub a b).toNat : Int) = ((a.toNat : Int) - b.toNat) % 256 ∧
    (Alu.sub a b).toNat = (if b.toNat ≤ a.toNat then a.toNat - b.toNat else a.toNat + 256 - b.toNat)) ∧
  (∀ a : Byte, Alu.sub a 0 = a ∧ Alu.sub a a = 0 ∧ (Alu.sub 0 a).toNat = (256 - a.toNat) % 256) ∧ Alu.sub 3 5 = 254

/-- R82. -/
def Obligations.MulKeepsTheLowByte : Prop :=
  (∀ a b : Byte, (Alu.mul a b).toNat = a.toNat * b.toNat % 256 ∧ Alu.mul a b = Alu.mul b a ∧
    Alu.mul a b = BitVec.ofInt 8 (a.toInt * b.toInt)) ∧
  (∀ a : Byte, Alu.mul a 0 = 0 ∧ Alu.mul a 1 = a) ∧ Alu.mul 16 16 = 0

/-- R83: the guard, and the unsigned quotient. -/
def Obligations.DivIsGuardedUnsignedQuotient : Prop :=
  (∀ a b : Byte, b ≠ 0 → ∃ q : Byte, Alu.div a b = some q ∧ q.toNat = a.toNat / b.toNat) ∧
  (∀ a : Byte, Alu.div a 0 = none ∧ Alu.div a 1 = some a ∧ (a ≠ 0 → Alu.div a a = some 1)) ∧
  (∀ a b : Byte, a.toNat < b.toNat → Alu.div a b = some 0) ∧ (∀ b : Byte, b ≠ 0 → Alu.div 0 b = some 0)

/-- R84, R85, and R15's use of them on the program counter. -/
def Obligations.IncAndDecWrapAndMoveThePc : Prop :=
  (∀ a : Byte, (Alu.inc a).toNat = (a.toNat + 1) % 256 ∧ ((Alu.dec a).toNat : Int) = ((a.toNat : Int) - 1) % 256) ∧
  Alu.inc 255 = 0 ∧ Alu.dec 0 = 255 ∧
  (∀ (s : State) (n : Nat), (s.advancePc n).pc.toNat = (s.pc.toNat + n) % 256) ∧
  (∀ s : State, s.retreatPc.pc = Alu.dec s.pc)

/-! ## The instructions: result, frame, completion, and the encoding that reaches them -/

/-- R70: INIT. -/
def Obligations.InitSelectsRegisterZero : Prop :=
  (∀ s : State, ∃ t, exec .init s = .next t ∧ t.cur = 0 ∧ t.pc = s.pc + 1 ∧ s.SameRegs t ∧ t.out = s.out ∧
    s.QuietFrame t) ∧
  (∀ s : State, s.readMem s.pc = 0x01 → stepOnce s = exec .init s)

/-- SET (40_selector_and_move.md). Where a step runs it, its operand byte is at `(pc + 1) mod 256`; at `pc` = 255 that
address is the spec's decision D3 (log entry 3). -/
def Obligations.SetSelectsItsOperand : Prop :=
  (∀ (s : State) (r : Byte), ∃ t, exec (.set r) s = .next t ∧ t.cur = r ∧ t.pc = s.pc + 2 ∧ s.SameRegs t ∧
    t.out = s.out ∧ s.QuietFrame t) ∧
  (∀ s : State, s.readMem s.pc = 0x02 → stepOnce s = exec (.set (s.readMem (s.pc + 1))) s)

/-- SAVE (40_selector_and_move.md). Where a step runs it, its operand byte is at `(pc + 1) mod 256`; at `pc` = 255 that
address is the spec's decision D3 (log entry 3). -/
def Obligations.SaveWritesTheSelectedRegister : Prop :=
  (∀ (s : State) (imm : Byte), ∃ t, exec (.save imm) s = .next t ∧ t.readReg s.cur = imm ∧ s.SameRegsBut s.cur t ∧
    t.cur = s.cur ∧ t.pc = s.pc + 2 ∧ t.out = s.out ∧ s.QuietFrame t) ∧
  (∀ s : State, s.readMem s.pc = 0x04 → stepOnce s = exec (.save (s.readMem (s.pc + 1))) s)

/-- MUL (41_arithmetic.md part 2), for every aliasing of `cur`, `r0` and `r1`. Where a step runs it, its operand
bytes are at `(pc + 1) mod 256` and `(pc + 2) mod 256`; at `pc` = 254 and 255 those addresses are the spec's decision D3
(log entry 3). -/
def Obligations.MulWritesTheProduct : Prop :=
  (∀ (s : State) (r0 r1 : Byte), ∃ t, exec (.mul r0 r1) s = .next t ∧
    (t.readReg s.cur).toNat = (s.readReg r0).toNat * (s.readReg r1).toNat % 256 ∧ s.SameRegsBut s.cur t ∧
    t.cur = s.cur ∧ t.pc = s.pc + 3 ∧ t.out = s.out ∧ s.QuietFrame t) ∧
  (∀ s : State, s.readMem s.pc = 0x05 →
    stepOnce s = exec (.mul (s.readMem (s.pc + 1)) (s.readMem (s.pc + 2))) s)

/-- SUB (41_arithmetic.md part 2), left minus right, for every aliasing. Where a step runs it, its operand
bytes are at `(pc + 1) mod 256` and `(pc + 2) mod 256`; at `pc` = 254 and 255 those addresses are the spec's decision D3
(log entry 3). -/
def Obligations.SubWritesLeftMinusRight : Prop :=
  (∀ (s : State) (r0 r1 : Byte), ∃ t, exec (.sub r0 r1) s = .next t ∧
    ((t.readReg s.cur).toNat : Int) = (((s.readReg r0).toNat : Int) - (s.readReg r1).toNat) % 256 ∧
    s.SameRegsBut s.cur t ∧ t.cur = s.cur ∧ t.pc = s.pc + 3 ∧ t.out = s.out ∧ s.QuietFrame t) ∧
  (∀ s : State, s.readMem s.pc = 0x0D →
    stepOnce s = exec (.sub (s.readMem (s.pc + 1)) (s.readMem (s.pc + 2))) s)

/-- ADD (41_arithmetic.md part 2), for every aliasing. Where a step runs it, its operand
bytes are at `(pc + 1) mod 256` and `(pc + 2) mod 256`; at `pc` = 254 and 255 those addresses are the spec's decision D3
(log entry 3). -/
def Obligations.AddWritesTheSum : Prop :=
  (∀ (s : State) (r0 r1 : Byte), ∃ t, exec (.add r0 r1) s = .next t ∧
    (t.readReg s.cur).toNat = ((s.readReg r0).toNat + (s.readReg r1).toNat) % 256 ∧ s.SameRegsBut s.cur t ∧
    t.cur = s.cur ∧ t.pc = s.pc + 3 ∧ t.out = s.out ∧ s.QuietFrame t) ∧
  (∀ s : State, s.readMem s.pc = 0x0F →
    stepOnce s = exec (.add (s.readMem (s.pc + 1)) (s.readMem (s.pc + 2))) s)

/-- DIV (41_arithmetic.md part 2) completes where the divisor register is not 0, and raises DivideByZero where it is.
Where a step runs it, its operand
bytes are at `(pc + 1) mod 256` and `(pc + 2) mod 256`; at `pc` = 254 and 255 those addresses are the spec's decision D3
(log entry 3). -/
def Obligations.DivWritesTheQuotientOrStops : Prop :=
  (∀ (s : State) (r0 r1 : Byte), s.readReg r1 ≠ 0 → ∃ t, exec (.div r0 r1) s = .next t ∧
    (t.readReg s.cur).toNat = (s.readReg r0).toNat / (s.readReg r1).toNat ∧ s.SameRegsBut s.cur t ∧
    t.cur = s.cur ∧ t.pc = s.pc + 3 ∧ t.out = s.out ∧ s.QuietFrame t) ∧
  (∀ (s : State) (r0 r1 : Byte), s.readReg r1 = 0 → ∃ t, exec (.div r0 r1) s = .next t ∧ t.run = false ∧
    t.reason = .divideByZero ∧ (∃ r, t.reports = s.reports ++ [r]) ∧ s.FatalFrame t) ∧
  (∀ s : State, s.readMem s.pc = 0x09 →
    stepOnce s = exec (.div (s.readMem (s.pc + 1)) (s.readMem (s.pc + 2))) s)

/-- R100: PRN. -/
def Obligations.PrnEmitsTheSelectedRegister : Prop :=
  (∀ s : State, ∃ t, exec .prn s = .next t ∧ t.out = s.out ++ [s.readReg s.cur] ∧ t.pc = s.pc + 1 ∧
    t.cur = s.cur ∧ s.SameRegs t ∧ s.QuietFrame t) ∧
  (∀ s : State, s.readMem s.pc = 0x06 → stepOnce s = exec .prn s)

/-- R101: HALT, which makes no report and leaves the program counter at its own address. -/
def Obligations.HaltStopsTheScheduler : Prop :=
  (∀ s : State, ∃ t, exec .halt s = .next t ∧ t.run = false ∧ t.reason = .halt ∧ t.pc = s.pc ∧ t.sp = s.sp ∧
    t.cur = s.cur ∧ s.SameRegs t ∧ s.SameMem t ∧ s.SameTraces t) ∧
  (∀ s : State, s.readMem s.pc = 0x00 → stepOnce s = exec .halt s)

/-- R112: PUSH, the stub. -/
def Obligations.PushOnlyAdvancesThePc : Prop :=
  (∀ s : State, ∃ t, exec .push s = .next t ∧ t.pc = s.pc + 1 ∧ t.cur = s.cur ∧ s.SameRegs t ∧ t.out = s.out ∧
    s.QuietFrame t) ∧
  (∀ s : State, s.readMem s.pc = 0x19 → stepOnce s = exec .push s)

/-- R113: POP, the stub. -/
def Obligations.PopOnlyDecrementsThePc : Prop :=
  (∀ s : State, ∃ t, exec .pop s = .next t ∧ t.pc = s.pc - 1 ∧ t.cur = s.cur ∧ s.SameRegs t ∧ t.out = s.out ∧
    s.QuietFrame t) ∧
  (∀ s : State, s.readMem s.pc = 0x1D → stepOnce s = exec .pop s)

/-- INC and DEC under `RESERVED_INC_DEC` = `pc_step`: the spec's decision D5 (43_reserved_and_stubs.md; log entry 1). -/
def Obligations.ReservedEntriesOnlyStepThePc : Prop :=
  (∀ s : State, ∃ t, exec .inc s = .next t ∧ t.pc = s.pc + 1 ∧ t.cur = s.cur ∧ s.SameRegs t ∧ t.out = s.out ∧
    s.QuietFrame t) ∧
  (∀ s : State, ∃ t, exec .dec s = .next t ∧ t.pc = s.pc - 1 ∧ t.cur = s.cur ∧ s.SameRegs t ∧ t.out = s.out ∧
    s.QuietFrame t) ∧
  (∀ s : State, s.readMem s.pc = 0x0B → stepOnce s = exec .inc s) ∧
  (∀ s : State, s.readMem s.pc = 0x11 → stepOnce s = exec .dec s)

/-- The other values of the two switches: `invalid` makes a reserved entry raise InvalidInstruction with the program
counter unchanged, `genuine` makes a stack entry a refusal (the spec's decisions D5 and D6; log entries 1 and 2). -/
def Obligations.OtherSwitchValuesRaiseOrRefuse : Prop :=
  (∀ (move : State → State) (s : State), ∃ t, reservedEntry .invalid move s = .next t ∧
    t.reports = s.reports ++ [⟨.invalidInstruction, s.pc, s.readMem s.pc⟩] ∧ t.run = false ∧
    t.reason = .invalidInstruction ∧ s.FatalFrame t) ∧
  (∀ (move : State → State) (s : State), stackEntry .genuine move s = .refused .genuineStack)

/-! ## Fatal conditions -/

/-- What raising a condition writes, and that it writes nothing else (60_exceptions.md section 2). The contents of the
report are the spec's decision D9, the reason's codes its decision D7 (log entries 5 and 6). -/
def Obligations.RaiseReportsAndStops : Prop :=
  ∀ (s : State) (c : Condition),
    (s.raise c).reports = s.reports ++ [⟨c, s.pc, s.readMem s.pc⟩] ∧ (s.raise c).run = false ∧
      (s.raise c).reason = c.reason ∧ s.FatalFrame (s.raise c) ∧
      Condition.invalidInstruction.reason.code = 2 ∧ Condition.divideByZero.reason.code = 3

/-- A byte at `pc` that is none of the thirteen opcodes (there are 243 such bytes) raises InvalidInstruction and does not
advance `pc`; each of the thirteen decodes to an instruction, whose meaning the step runs, and the step answers a next
state with no InvalidInstruction report more (30_encoding.md section 4). That 0x0B and 0x11 are one-byte instructions which
do not raise it is the spec's decision D5 (log entry 1). -/
def Obligations.UnknownOpcodeRaisesInvalidInstruction : Prop :=
  (∀ s : State, s.readMem s.pc ∉ ([0x00, 0x01, 0x02, 0x04, 0x05, 0x06, 0x09, 0x0B, 0x0D, 0x0F, 0x11, 0x19, 0x1D] : List Byte) →
    stepOnce s = .next (s.raise .invalidInstruction) ∧ (s.raise .invalidInstruction).pc = s.pc) ∧
  (∀ s : State, s.readMem s.pc ∈ ([0x00, 0x01, 0x02, 0x04, 0x05, 0x06, 0x09, 0x0B, 0x0D, 0x0F, 0x11, 0x19, 0x1D] : List Byte) →
    ∃ (i : Instr) (t : State), decode s.fetch = .ok (i, []) ∧ stepOnce s = exec i s ∧ exec i s = .next t ∧
      ∀ r ∈ t.reports.drop s.reports.length, r.kind ≠ .invalidInstruction) ∧
  ((List.range 256).filter (fun n => (Opcode.ofByte? (BitVec.ofNat 8 n)).isNone)).length = 243

/-- A DIV at `pc` whose right operand register holds 0 stops the machine, whatever the dividend (60_exceptions.md section
1). The operand byte `r1` is at `(pc + 2) mod 256`, a wrap that is the spec's decision D3; the report's contents are its
decision D9 and the reason's code its decision D7 (log entries 3, 5, 6). -/
def Obligations.ZeroDivisorRaisesDivideByZero : Prop :=
  ∀ s : State, s.readMem s.pc = 0x09 → s.readReg (s.readMem (s.pc + 2)) = 0 →
    ∃ t, stepOnce s = .next t ∧ t.run = false ∧ t.reason = .divideByZero ∧ t.reason.code = 3 ∧
      t.reports = s.reports ++ [⟨.divideByZero, s.pc, 0x09⟩] ∧ s.FatalFrame t

/-- A step that reports has done nothing else (R122, R156): the conditions are precise. -/
def Obligations.ReportingStepChangesOnlyStatus : Prop :=
  ∀ s t : State, stepOnce s = .next t → t.reports ≠ s.reports →
    s.FatalFrame t ∧ t.run = false ∧
      ∃ c : Condition, t.reason = c.reason ∧ t.reports = s.reports ++ [⟨c, s.pc, s.readMem s.pc⟩]

/-! ## The step, the scheduler, the host -/

/-- What a step of the model does: nothing while `run` is 0; while it is 1, the decoded instruction's meaning, or the
InvalidInstruction condition (45_step_and_scheduler.md sections 1 and 2). Nothing stands around the meaning: it moves the
program counter itself. That the model's step is Tick is the model's choice, log entry 7. -/
def Obligations.TickRunsTheDecodedInstruction : Prop :=
  (∀ s : State, step s = if s.run = true then stepOnce s else .next s) ∧
  (∀ (s : State) (i : Instr) (rest : List Byte), s.run = true → i.wellFormed = true → decode s.fetch = .ok (i, rest) →
    step s = exec i s) ∧
  (∀ (s : State) (e : DecodeError), s.run = true → decode s.fetch = .error e →
    step s = .next (s.raise .invalidInstruction))

/-- A step is total: one next state, at most one output byte and at most one report more (R120; the traces are the
spec's decisions D9 and D10). -/
def Obligations.EveryStepAnswersOneNextState : Prop :=
  ∀ s : State, ∃ t, stepOnce s = .next t ∧ (t.out = s.out ∨ ∃ v, t.out = s.out ++ [v]) ∧
    (t.reports = s.reports ∨ ∃ r, t.reports = s.reports ++ [r])

/-- R19: the two writers of the selector, and that a fatal condition is none. -/
def Obligations.SelectorWrittenOnlyBySetAndInit : Prop :=
  (∀ (i : Instr) (s t : State), exec i s = .next t →
    t.cur = (match i with | .set r => r | .init => 0 | _ => s.cur)) ∧
  (∀ (s : State) (c : Condition), (s.raise c).cur = s.cur)

/-- R16: no instruction writes the stack pointer, and none reads it: with another value in it an instruction does the
same. It is 255 at reset. -/
def Obligations.StackPointerNeitherReadNorWritten : Prop :=
  (∀ (i : Instr) (s t : State) (v : Byte), exec i s = .next t →
    t.sp = s.sp ∧ exec i { s with sp := v } = .next { t with sp := v }) ∧ State.reset.sp = 255

/-- Only the selected register is ever written, and only by SAVE and the four arithmetic instructions (10_state.md
section 2). -/
def Obligations.OnlyTheSelectedRegisterIsWritten : Prop :=
  ∀ (i : Instr) (s t : State), exec i s = .next t →
    (match i with
      | .save _ | .mul _ _ | .div _ _ | .sub _ _ | .add _ _ => s.SameRegsBut s.cur t
      | _ => s.SameRegs t)

/-- No step writes memory (20_memory.md section 2): only a poke or a reset does. -/
def Obligations.OnlyTheHostWritesMemory : Prop :=
  ∀ (e : Transaction) (s t : State), transact e s = .next t →
    (match e with
      | .poke address value => t.readMem (BitVec.ofNat 8 address) = BitVec.ofNat 8 value ∧
          ∀ addr : Byte, addr ≠ BitVec.ofNat 8 address → t.readMem addr = s.readMem addr
      | .reset => ∀ addr : Byte, t.readMem addr = 0
      | _ => s.SameMem t)

/-- The only ways the program counter moves (45_step_and_scheduler.md section 1): a fixed step that depends on the
instruction alone, or none where a fatal condition is raised. The steps of INC and DEC are the spec's decision D5. -/
def Obligations.ProgramCounterMovesByFixedSteps : Prop :=
  ∀ (i : Instr) (s t : State), exec i s = .next t →
    if t.reports = s.reports then t.pc = i.pcAfter s.pc else t.pc = s.pc

/-- Output is made by PRN alone, one byte each, the selected register's (46_host_interface.md; the trace is the spec's
decision D10). -/
def Obligations.OnlyPrnMakesOutput : Prop :=
  ∀ (i : Instr) (s t : State), exec i s = .next t →
    t.out = if i = .prn then s.out ++ [s.readReg s.cur] else s.out

/-- The traces only grow, under every transaction but reset (the spec's decisions D9, D10; log entry 6). -/
def Obligations.TracesOnlyGrow : Prop :=
  ∀ (e : Transaction) (s t : State), e ≠ .reset → transact e s = .next t →
    s.out <+: t.out ∧ s.reports <+: t.reports

/-- A stopped machine stays as it is, however many ticks arrive (R25, R123). -/
def Obligations.StoppedMachineIsFrozen : Prop :=
  ∀ (s : State) (n : Nat), s.run = false → runTicks n s = .next s

/-- What `start` and `stop` write, that both are idempotent, and that a stop and a start between two ticks leave a
running machine as it was. What they write to `reason` is the spec's decision D8. -/
def Obligations.StartAndStopWriteTheStatus : Prop :=
  (∀ s : State, s.run = false → s.start.run = true ∧ s.start.reason = .none ∧ s.start.pc = s.pc ∧
    s.start.sp = s.sp ∧ s.start.cur = s.cur ∧ s.SameRegs s.start ∧ s.SameMem s.start ∧ s.SameTraces s.start) ∧
  (∀ s : State, s.run = true → s.stop.run = false ∧ s.stop.reason = .externalStop ∧ s.stop.pc = s.pc ∧
    s.stop.sp = s.sp ∧ s.stop.cur = s.cur ∧ s.SameRegs s.stop ∧ s.SameMem s.stop ∧ s.SameTraces s.stop) ∧
  (∀ s : State, s.start.start = s.start ∧ s.stop.stop = s.stop) ∧
  (∀ s : State, s.run = true → s.start = s) ∧ (∀ s : State, s.run = false → s.stop = s) ∧
  (∀ s : State, s.run = true → s.reason = .none → s.stop.start = s)

/-- R135: a poke while stopped writes its cell and nothing else. -/
def Obligations.PokeWritesOneCell : Prop :=
  ∀ (s : State) (address value : Nat), s.run = false → address < 256 → value < 256 →
    ∃ t, poke address value s = .next t ∧ (t.readMem (BitVec.ofNat 8 address)).toNat = value ∧
      (∀ addr : Byte, addr.toNat ≠ address → t.readMem addr = s.readMem addr) ∧
      t.pc = s.pc ∧ t.sp = s.sp ∧ t.cur = s.cur ∧ s.SameRegs t ∧ s.SameStatus t ∧ s.SameTraces t

/-- The pokes the model turns away: an address or value outside a byte (the spec's decision D16), and a poke while the
machine runs, which the host must not do (decision D12; log entry 8). -/
def Obligations.PokesTurnedAway : Prop :=
  (∀ (s : State) (address value : Nat), 256 ≤ address ∨ 256 ≤ value →
    poke address value s = .refused (.pokeOutOfRange address value)) ∧
  (∀ (s : State) (address value : Nat), address < 256 → value < 256 → s.run = true →
    poke address value s = .refused .pokeWhileRunning)

/-- Pokes as whole states, while stopped and where memory is canonical (46_host_interface.md section 1): of two pokes to
one address the later stands alone, so repeating a poke changes nothing, and pokes to different addresses commute; the
same of memory writes in any state. That the canonical form makes equal memories equal states is the model's choice, log
entry 10. -/
def Obligations.PokesOverwriteAndCommute : Prop :=
  (∀ (s : State) (a v w : Nat), Memory.wf s.mem → s.run = false → a < 256 → v < 256 → w < 256 →
    ∃ t, poke a v s = .next t ∧ poke a v t = .next t ∧ poke a w t = poke a w s) ∧
  (∀ (s : State) (a b v w : Nat), Memory.wf s.mem → s.run = false → a < 256 → b < 256 → v < 256 → w < 256 → a ≠ b →
    ∃ t u x, poke a v s = .next t ∧ poke b w s = .next u ∧ poke b w t = .next x ∧ poke a v u = .next x) ∧
  (∀ (s : State) (a v w : Byte), Memory.wf s.mem → (s.writeMem a v).writeMem a w = s.writeMem a w) ∧
  (∀ (s : State) (a b v w : Byte), Memory.wf s.mem → a ≠ b →
    (s.writeMem a v).writeMem b w = (s.writeMem b w).writeMem a v)

/-- A byte poked while stopped is what the next step fetches at that address, opcode or operand (20_memory.md
section 6): the step reads the format of the opcode that now stands at `pc`, and reads the poked byte where the poked
address is among the format's. -/
def Obligations.PokedByteIsFetchedNext : Prop :=
  ∀ (s t : State) (a v : Byte), poke a.toNat v.toNat s = .next t →
    step t.start = stepOnce t.start ∧
      t.start.fetchAddrs = (List.range (bytesRead (if s.pc = a then v else s.readMem s.pc))).map
        (fun k => s.pc + BitVec.ofNat 8 k) ∧
      t.start.fetch = t.start.fetchAddrs.map (fun addr => if addr = a then v else s.readMem addr)

/-- After HALT or a fatal condition, `start` and one tick run into the same stop again: the machine stands as before,
but for the reports, which gain the condition's report once more (45_step_and_scheduler.md section 2). -/
def Obligations.RestartRepeatsTheStop : Prop :=
  ∀ s t : State, s.run = true → step s = .next t → t.run = false →
    ∃ u, step t.start = .next u ∧ u.run = false ∧ u.reason = t.reason ∧ u.pc = t.pc ∧ u.sp = t.sp ∧ u.cur = t.cur ∧
      t.SameRegs u ∧ t.SameMem u ∧ u.out = t.out ∧ u.reports = t.reports ++ t.reports.drop s.reports.length

/-- Ticks and a driver that calls the step directly do the same (R127, R128; the spec's decision D17): from a state that
shows no stop reason they reach the same registers, memory, program counter, traces and reason, and the ticked machine
still runs exactly where the reason is still NONE. -/
def Obligations.DriverAndTicksAgree : Prop :=
  ∀ (s : State) (n : Nat), s.reason = .none → ∃ t u, driveSteps n s = .next t ∧ runFor n s = .next u ∧
    u.regs = t.regs ∧ u.mem = t.mem ∧ u.pc = t.pc ∧ u.sp = t.sp ∧ u.cur = t.cur ∧ u.out = t.out ∧
    u.reports = t.reports ∧ u.reason = t.reason ∧ (u.run = true ↔ t.reason = .none)

/-- No path depends on data (45_step_and_scheduler.md section 1): two machines that agree on memory, program counter,
selector and `run`, with any registers, any stack pointer, any reason and any traces (an earlier DivideByZero among them),
agree on them after any number of ticks in which neither has reported a zero divisor. -/
def Obligations.ControlFlowIgnoresData : Prop :=
  ∀ (n : Nat) (s₁ s₂ t₁ t₂ : State), s₁.mem = s₂.mem → s₁.pc = s₂.pc → s₁.cur = s₂.cur → s₁.run = s₂.run →
    runTicks n s₁ = .next t₁ → runTicks n s₂ = .next t₂ →
    (∀ r ∈ t₁.reports.drop s₁.reports.length, r.kind ≠ .divideByZero) →
    (∀ r ∈ t₂.reports.drop s₂.reports.length, r.kind ≠ .divideByZero) →
    t₁.mem = t₂.mem ∧ t₁.pc = t₂.pc ∧ t₁.cur = t₂.cur ∧ t₁.run = t₂.run

/-- A machine can run for ever (70_reset_and_hazards.md section 3): at a one-byte instruction that advances, followed by
POP or DEC, it steps to and fro between the two addresses. The steps of INC and DEC are the spec's decision D5. -/
def Obligations.BackStepPairNeverStops : Prop :=
  ∀ s : State, s.run = true → s.readMem s.pc ∈ ([0x01, 0x06, 0x0B, 0x19] : List Byte) →
    s.readMem (s.pc + 1) ∈ ([0x11, 0x1D] : List Byte) →
    ∀ n : Nat, ∃ t, runTicks n s = .next t ∧ t.run = true ∧ t.pc = (if n % 2 = 0 then s.pc else s.pc + 1)

/-- A memory of one-byte instructions that all advance is run round for ever (70_reset_and_hazards.md section 3). The
step of INC is the spec's decision D5. -/
def Obligations.AdvancingMemoryIsRunRoundForEver : Prop :=
  ∀ s : State, s.run = true → (∀ addr : Byte, s.readMem addr ∈ ([0x01, 0x06, 0x0B, 0x19] : List Byte)) →
    ∀ n : Nat, ∃ t, runTicks n s = .next t ∧ t.run = true ∧ t.pc.toNat = (s.pc.toNat + n) % 256 ∧ s.SameMem t

/-- A machine started with no program loaded halts on its first step (70_reset_and_hazards.md section 2), and one that
is not started does nothing. -/
def Obligations.UnloadedMachineHaltsAtOnce : Prop :=
  (∃ t, step State.reset.start = .next t ∧ t.run = false ∧ t.reason = .halt ∧ t.pc = 0 ∧ t.out = [] ∧ t.reports = []) ∧
    step State.reset = .next State.reset

/-- Inspection shows every piece of state of a stopped machine (46_host_interface.md); while it runs the model gives the
host no read (log entry 8). -/
def Obligations.InspectionShowsAStoppedMachine : Prop :=
  (∀ s : State, s.run = false → (∀ addr, inspect (.mem addr) s = some (.byte (s.readMem addr))) ∧
    (∀ i, inspect (.reg i) s = some (.byte (s.readReg i))) ∧ inspect .pc s = some (.byte s.pc) ∧
    inspect .sp s = some (.byte s.sp) ∧ inspect .cur s = some (.byte s.cur) ∧ inspect .run s = some (.flag false) ∧
    inspect .reason s = some (.reason s.reason)) ∧
  (∀ (s : State) (p : Probe), s.run = true → inspect p s = none)

/-- An instruction placed where the machine fetches next, with the scheduler started, is what the next step runs (the
loader's pokes and the host's `start`, 70_reset_and_hazards.md section 2; the convention is the model's, log entry 7). -/
def Obligations.PlacedWordRunsNext : Prop :=
  ∀ (s : State) (nbits w : Nat) (i : Instr), decodeTableWord nbits w = some i →
    step (s.withFetchWord nbits w) = exec i (s.withFetchWord nbits w)

/-! ## The invariant -/

/-- The invariant holds at reset. -/
def Obligations.InvariantHoldsAtReset : Prop := State.reset.Inv

/-- Every step of the machine keeps the invariant, from every state that has it: memory canonical, the stack pointer
255, no stop reason while running, a fatal stop reported last and at the program counter, every report sound. -/
def Obligations.StepKeepsTheInvariant : Prop :=
  ∀ s t : State, s.Inv → step s = .next t → t.Inv

/-- So does every transaction of the host. -/
def Obligations.TransactionsKeepTheInvariant : Prop :=
  ∀ (e : Transaction) (s t : State), s.Inv → transact e s = .next t → t.Inv
end

