-- ==== Sys2Proof/Laws/Alu.lean ====
section
/-!
SUPPORT. The ALU primitives as bit-vector arithmetic, once each.
-/

namespace Sys2Proof.Machine

@[simp] theorem Alu.add_eq (a b : Byte) : Alu.add a b = a + b := by
  apply BitVec.eq_of_toNat_eq
  simp [Alu.add, narrow, BitVec.toNat_ofInt]
  omega

@[simp] theorem Alu.sub_eq (a b : Byte) : Alu.sub a b = a - b := by
  apply BitVec.eq_of_toNat_eq
  simp [Alu.sub, narrow, BitVec.toNat_ofInt, BitVec.toNat_sub]
  omega

@[simp] theorem Alu.mul_eq (a b : Byte) : Alu.mul a b = a * b := by
  apply BitVec.eq_of_toNat_eq
  simp [Alu.mul, narrow, BitVec.toNat_ofInt, BitVec.toNat_mul]
  norm_cast

@[simp] theorem Alu.inc_eq (a : Byte) : Alu.inc a = a + 1 := by
  apply BitVec.eq_of_toNat_eq
  simp [Alu.inc, narrow, BitVec.toNat_ofInt, BitVec.toNat_add]
  omega

@[simp] theorem Alu.dec_eq (a : Byte) : Alu.dec a = a - 1 := by
  apply BitVec.eq_of_toNat_eq
  simp [Alu.dec, narrow, BitVec.toNat_ofInt, BitVec.toNat_sub]
  omega

/-- The whole of `div` (R83): a signal on a zero divisor, the unsigned quotient otherwise. -/
theorem Alu.div_eq (a b : Byte) : Alu.div a b = if b = 0 then none else some (a / b) := by
  by_cases h : b = 0
  · simp [Alu.div, h]
  · have hb : b.toNat ≠ 0 := fun e => h (BitVec.eq_of_toNat_eq (by simpa using e))
    have hlt : a.toNat / b.toNat < 256 := lt_of_le_of_lt (Nat.div_le_self _ _) a.isLt
    simp only [Alu.div, hb, h, if_false, Option.some.injEq]
    apply BitVec.eq_of_toNat_eq
    simp only [narrow, BitVec.toNat_ofInt, BitVec.toNat_udiv]
    norm_cast
    exact Nat.mod_eq_of_lt hlt

/-- Advancing by `n` is one addition modulo 256 (R15). -/
@[simp] theorem Alu.incBy_eq (n : Nat) (a : Byte) : Alu.incBy n a = a + BitVec.ofNat 8 n := by
  induction n generalizing a with
  | zero => simp [Alu.incBy]
  | succ n ih =>
    rw [Alu.incBy, ih, Alu.inc_eq]
    apply BitVec.eq_of_toNat_eq
    simp [BitVec.toNat_add]
    omega

end Sys2Proof.Machine
end

