-- ==== Sys2Proof/Laws/Memory.lean ====
section
/-!
SUPPORT. The laws of the memory list: what a read finds after a write, in every list; and that every operation keeps
the canonical form.
-/

namespace Sys2Proof.Machine

theorem Memory.lookup_erase (m : Memory) (a b : Nat) :
    (m.erase a).lookup b = if a = b then Memory.unlisted else m.lookup b := by
  induction m with
  | nil => simp [Memory.erase, Memory.lookup]
  | cons c m ih =>
    obtain ⟨k, w⟩ := c
    simp only [Memory.erase] at ih ⊢
    by_cases hk : k = a
    · subst hk
      simp only [List.filter_cons, bne_self_eq_false, Bool.false_eq_true, if_false, ih, Memory.lookup]
      split <;> simp_all
    · simp only [List.filter_cons, bne_iff_ne, ne_eq, hk, not_false_eq_true, if_true, Memory.lookup, ih]
      by_cases hb : k = b
      · subst hb; simp [Ne.symm hk]
      · simp [hb]

theorem Memory.lookup_insert_of_absent (m : Memory) (a b : Nat) (v : Byte) (h : ∀ c ∈ m, c.1 ≠ a) :
    (m.insert a v).lookup b = if a = b then v else m.lookup b := by
  induction m with
  | nil => simp [Memory.insert, Memory.lookup]
  | cons c m ih =>
    obtain ⟨k, w⟩ := c
    have hk : k ≠ a := h (k, w) (by simp)
    have ih := ih fun c hc => h c (by simp [hc])
    simp only [Memory.insert]
    split
    · simp [Memory.lookup]
    · simp only [Memory.lookup, ih]
      by_cases hb : k = b
      · subst hb; simp [Ne.symm hk]
      · simp [hb]

theorem Memory.erase_absent (m : Memory) (a : Nat) : ∀ c ∈ m.erase a, c.1 ≠ a := by
  intro c hc
  simpa using (List.mem_filter.mp hc).2

/-- A read after a write, in every list (R31, R32). -/
@[simp] theorem Memory.read_write (m : Memory) (a b v : Byte) :
    (m.write a v).read b = if a = b then v else m.read b := by
  simp only [Memory.write, Memory.read, ← BitVec.toNat_inj (x := a)]
  split
  · subst_vars; exact Memory.lookup_erase m a.toNat b.toNat
  · rw [Memory.lookup_insert_of_absent _ _ _ _ (Memory.erase_absent m a.toNat), Memory.lookup_erase]
    split <;> rfl

@[simp] theorem State.readMem_writeMem (s : State) (a b v : Byte) :
    (s.writeMem a v).readMem b = if a = b then v else s.readMem b :=
  Memory.read_write s.mem a b v

/-- Every byte of memory reads 0 at reset (R26, R31). -/
@[simp] theorem State.reset_readMem (a : Byte) : State.reset.readMem a = 0 := rfl

theorem Memory.mem_insert (m : Memory) (a : Nat) (v : Byte) (c : Host.Cell) :
    c ∈ m.insert a v ↔ c = (a, v) ∨ c ∈ m := by
  induction m with
  | nil => simp [Memory.insert]
  | cons d m ih =>
    obtain ⟨k, w⟩ := d
    simp only [Memory.insert]
    split
    · simp
    · simp only [List.mem_cons, ih]; tauto

theorem Memory.wf_erase {m : Memory} (h : Memory.wf m) (a : Nat) : Memory.wf (m.erase a) :=
  ⟨h.1.filter _, fun c hc => h.2 c (List.mem_filter.mp hc).1⟩

theorem Memory.wf_insert {m : Memory} (h : Memory.wf m) (a : Nat) (v : Byte) (ha : a < 256)
    (hv : v ≠ Memory.unlisted) (absent : ∀ c ∈ m, c.1 ≠ a) : Memory.wf (m.insert a v) := by
  refine ⟨?_, fun c hc => ?_⟩
  · obtain ⟨hm, -⟩ := h
    induction m with
    | nil => simp [Memory.insert]
    | cons d m ih =>
      obtain ⟨k, w⟩ := d
      have hk : k ≠ a := absent (k, w) (by simp)
      obtain ⟨h1, h2⟩ := List.pairwise_cons.mp hm
      simp only [Memory.insert]
      split
      · rename_i hlt
        refine List.pairwise_cons.mpr ⟨fun c hc => ?_, hm⟩
        rcases List.mem_cons.mp hc with rfl | hc
        · exact hlt
        · exact lt_trans hlt (h1 c hc)
      · rename_i hlt
        refine List.pairwise_cons.mpr ⟨fun c hc => ?_, ih (fun c hc => absent c (by simp [hc])) h2⟩
        rcases (Memory.mem_insert m a v c).mp hc with rfl | hc
        · show k < a; omega
        · exact h1 c hc
  · rcases (Memory.mem_insert m a v c).mp hc with rfl | hc
    · exact ⟨ha, hv⟩
    · exact h.2 c hc

/-- Every write keeps the canonical form. -/
theorem Memory.wf_write {m : Memory} (h : Memory.wf m) (a v : Byte) : Memory.wf (m.write a v) := by
  unfold Memory.write
  split
  · exact Memory.wf_erase h _
  · rename_i hv
    exact Memory.wf_insert (Memory.wf_erase h _) _ _ a.isLt hv (Memory.erase_absent m _)

/-- Memory is in its canonical form at reset. -/
theorem Memory.wf_reset : Memory.wf State.reset.mem := by decide

/-- In a canonical list a smaller key than the first is not listed. -/
theorem Memory.lookup_of_lt {m : Memory} {a : Nat} (h : ∀ c ∈ m, a < c.1) : m.lookup a = Memory.unlisted := by
  induction m with
  | nil => rfl
  | cons c m ih =>
    obtain ⟨k, w⟩ := c
    have hk : a < k := h (k, w) (by simp)
    rw [Memory.lookup, if_neg (by omega), ih fun c hc => h c (by simp [hc])]

end Sys2Proof.Machine
end

