-- ==== Sys2Proof/Laws/State.lean ====
section
/-!
SUPPORT. One lemma per field per named update, true by rfl; and the registers' read-after-write law.
-/

namespace Sys2Proof.Machine

variable (s : State) (a v i r : Byte) (n : Nat) (c : Condition) (q : Reason) (rep : Report)

@[simp] theorem State.writeMem_regs : (s.writeMem a v).regs = s.regs := rfl
@[simp] theorem State.writeMem_pc : (s.writeMem a v).pc = s.pc := rfl
@[simp] theorem State.writeMem_sp : (s.writeMem a v).sp = s.sp := rfl
@[simp] theorem State.writeMem_cur : (s.writeMem a v).cur = s.cur := rfl
@[simp] theorem State.writeMem_run : (s.writeMem a v).run = s.run := rfl
@[simp] theorem State.writeMem_reason : (s.writeMem a v).reason = s.reason := rfl
@[simp] theorem State.writeMem_mem : (s.writeMem a v).mem = s.mem.write a v := rfl
@[simp] theorem State.writeMem_out : (s.writeMem a v).out = s.out := rfl
@[simp] theorem State.writeMem_reports : (s.writeMem a v).reports = s.reports := rfl
@[simp] theorem State.writeMem_readReg (j : Byte) : (s.writeMem a v).readReg j = s.readReg j := rfl

@[simp] theorem State.writeReg_pc : (s.writeReg i v).pc = s.pc := rfl
@[simp] theorem State.writeReg_sp : (s.writeReg i v).sp = s.sp := rfl
@[simp] theorem State.writeReg_cur : (s.writeReg i v).cur = s.cur := rfl
@[simp] theorem State.writeReg_run : (s.writeReg i v).run = s.run := rfl
@[simp] theorem State.writeReg_reason : (s.writeReg i v).reason = s.reason := rfl
@[simp] theorem State.writeReg_mem : (s.writeReg i v).mem = s.mem := rfl
@[simp] theorem State.writeReg_out : (s.writeReg i v).out = s.out := rfl
@[simp] theorem State.writeReg_reports : (s.writeReg i v).reports = s.reports := rfl
@[simp] theorem State.writeReg_readMem (b : Byte) : (s.writeReg i v).readMem b = s.readMem b := rfl

@[simp] theorem State.setPc_regs : (s.setPc a).regs = s.regs := rfl
@[simp] theorem State.setPc_pc : (s.setPc a).pc = a := rfl
@[simp] theorem State.setPc_sp : (s.setPc a).sp = s.sp := rfl
@[simp] theorem State.setPc_cur : (s.setPc a).cur = s.cur := rfl
@[simp] theorem State.setPc_run : (s.setPc a).run = s.run := rfl
@[simp] theorem State.setPc_reason : (s.setPc a).reason = s.reason := rfl
@[simp] theorem State.setPc_mem : (s.setPc a).mem = s.mem := rfl
@[simp] theorem State.setPc_out : (s.setPc a).out = s.out := rfl
@[simp] theorem State.setPc_reports : (s.setPc a).reports = s.reports := rfl
@[simp] theorem State.setPc_readMem (b : Byte) : (s.setPc a).readMem b = s.readMem b := rfl
@[simp] theorem State.setPc_readReg (j : Byte) : (s.setPc a).readReg j = s.readReg j := rfl

@[simp] theorem State.setCur_regs : (s.setCur r).regs = s.regs := rfl
@[simp] theorem State.setCur_pc : (s.setCur r).pc = s.pc := rfl
@[simp] theorem State.setCur_sp : (s.setCur r).sp = s.sp := rfl
@[simp] theorem State.setCur_cur : (s.setCur r).cur = r := rfl
@[simp] theorem State.setCur_run : (s.setCur r).run = s.run := rfl
@[simp] theorem State.setCur_reason : (s.setCur r).reason = s.reason := rfl
@[simp] theorem State.setCur_mem : (s.setCur r).mem = s.mem := rfl
@[simp] theorem State.setCur_out : (s.setCur r).out = s.out := rfl
@[simp] theorem State.setCur_reports : (s.setCur r).reports = s.reports := rfl
@[simp] theorem State.setCur_readMem (b : Byte) : (s.setCur r).readMem b = s.readMem b := rfl
@[simp] theorem State.setCur_readReg (j : Byte) : (s.setCur r).readReg j = s.readReg j := rfl

@[simp] theorem State.emit_regs : (s.emit v).regs = s.regs := rfl
@[simp] theorem State.emit_pc : (s.emit v).pc = s.pc := rfl
@[simp] theorem State.emit_sp : (s.emit v).sp = s.sp := rfl
@[simp] theorem State.emit_cur : (s.emit v).cur = s.cur := rfl
@[simp] theorem State.emit_run : (s.emit v).run = s.run := rfl
@[simp] theorem State.emit_reason : (s.emit v).reason = s.reason := rfl
@[simp] theorem State.emit_mem : (s.emit v).mem = s.mem := rfl
@[simp] theorem State.emit_out : (s.emit v).out = s.out ++ [v] := rfl
@[simp] theorem State.emit_reports : (s.emit v).reports = s.reports := rfl
@[simp] theorem State.emit_readMem (b : Byte) : (s.emit v).readMem b = s.readMem b := rfl
@[simp] theorem State.emit_readReg (j : Byte) : (s.emit v).readReg j = s.readReg j := rfl

@[simp] theorem State.addReport_regs : (s.addReport rep).regs = s.regs := rfl
@[simp] theorem State.addReport_pc : (s.addReport rep).pc = s.pc := rfl
@[simp] theorem State.addReport_sp : (s.addReport rep).sp = s.sp := rfl
@[simp] theorem State.addReport_cur : (s.addReport rep).cur = s.cur := rfl
@[simp] theorem State.addReport_run : (s.addReport rep).run = s.run := rfl
@[simp] theorem State.addReport_reason : (s.addReport rep).reason = s.reason := rfl
@[simp] theorem State.addReport_mem : (s.addReport rep).mem = s.mem := rfl
@[simp] theorem State.addReport_out : (s.addReport rep).out = s.out := rfl
@[simp] theorem State.addReport_reports : (s.addReport rep).reports = s.reports ++ [rep] := rfl
@[simp] theorem State.addReport_readMem (b : Byte) : (s.addReport rep).readMem b = s.readMem b := rfl
@[simp] theorem State.addReport_readReg (j : Byte) : (s.addReport rep).readReg j = s.readReg j := rfl

@[simp] theorem State.halt_regs : (s.halt q).regs = s.regs := rfl
@[simp] theorem State.halt_pc : (s.halt q).pc = s.pc := rfl
@[simp] theorem State.halt_sp : (s.halt q).sp = s.sp := rfl
@[simp] theorem State.halt_cur : (s.halt q).cur = s.cur := rfl
@[simp] theorem State.halt_run : (s.halt q).run = false := rfl
@[simp] theorem State.halt_reason : (s.halt q).reason = q := rfl
@[simp] theorem State.halt_mem : (s.halt q).mem = s.mem := rfl
@[simp] theorem State.halt_out : (s.halt q).out = s.out := rfl
@[simp] theorem State.halt_reports : (s.halt q).reports = s.reports := rfl
@[simp] theorem State.halt_readMem (b : Byte) : (s.halt q).readMem b = s.readMem b := rfl
@[simp] theorem State.halt_readReg (j : Byte) : (s.halt q).readReg j = s.readReg j := rfl

@[simp] theorem State.raise_regs : (s.raise c).regs = s.regs := rfl
@[simp] theorem State.raise_pc : (s.raise c).pc = s.pc := rfl
@[simp] theorem State.raise_sp : (s.raise c).sp = s.sp := rfl
@[simp] theorem State.raise_cur : (s.raise c).cur = s.cur := rfl
@[simp] theorem State.raise_run : (s.raise c).run = false := rfl
@[simp] theorem State.raise_reason : (s.raise c).reason = c.reason := rfl
@[simp] theorem State.raise_mem : (s.raise c).mem = s.mem := rfl
@[simp] theorem State.raise_out : (s.raise c).out = s.out := rfl
@[simp] theorem State.raise_reports : (s.raise c).reports = s.reports ++ [⟨c, s.pc, s.readMem s.pc⟩] := rfl
@[simp] theorem State.raise_readMem (b : Byte) : (s.raise c).readMem b = s.readMem b := rfl
@[simp] theorem State.raise_readReg (j : Byte) : (s.raise c).readReg j = s.readReg j := rfl

@[simp] theorem State.writeSelected_pc : (s.writeSelected v).pc = s.pc := rfl
@[simp] theorem State.writeSelected_sp : (s.writeSelected v).sp = s.sp := rfl
@[simp] theorem State.writeSelected_cur : (s.writeSelected v).cur = s.cur := rfl
@[simp] theorem State.writeSelected_run : (s.writeSelected v).run = s.run := rfl
@[simp] theorem State.writeSelected_reason : (s.writeSelected v).reason = s.reason := rfl
@[simp] theorem State.writeSelected_mem : (s.writeSelected v).mem = s.mem := rfl
@[simp] theorem State.writeSelected_out : (s.writeSelected v).out = s.out := rfl
@[simp] theorem State.writeSelected_reports : (s.writeSelected v).reports = s.reports := rfl
@[simp] theorem State.writeSelected_readMem (b : Byte) : (s.writeSelected v).readMem b = s.readMem b := rfl

@[simp] theorem State.advancePc_regs : (s.advancePc n).regs = s.regs := rfl
@[simp] theorem State.advancePc_pc : (s.advancePc n).pc = Alu.incBy n s.pc := rfl
@[simp] theorem State.advancePc_sp : (s.advancePc n).sp = s.sp := rfl
@[simp] theorem State.advancePc_cur : (s.advancePc n).cur = s.cur := rfl
@[simp] theorem State.advancePc_run : (s.advancePc n).run = s.run := rfl
@[simp] theorem State.advancePc_reason : (s.advancePc n).reason = s.reason := rfl
@[simp] theorem State.advancePc_mem : (s.advancePc n).mem = s.mem := rfl
@[simp] theorem State.advancePc_out : (s.advancePc n).out = s.out := rfl
@[simp] theorem State.advancePc_reports : (s.advancePc n).reports = s.reports := rfl
@[simp] theorem State.advancePc_readMem (b : Byte) : (s.advancePc n).readMem b = s.readMem b := rfl
@[simp] theorem State.advancePc_readReg (j : Byte) : (s.advancePc n).readReg j = s.readReg j := rfl

@[simp] theorem State.retreatPc_regs : (s.retreatPc).regs = s.regs := rfl
@[simp] theorem State.retreatPc_pc : (s.retreatPc).pc = Alu.dec s.pc := rfl
@[simp] theorem State.retreatPc_sp : (s.retreatPc).sp = s.sp := rfl
@[simp] theorem State.retreatPc_cur : (s.retreatPc).cur = s.cur := rfl
@[simp] theorem State.retreatPc_run : (s.retreatPc).run = s.run := rfl
@[simp] theorem State.retreatPc_reason : (s.retreatPc).reason = s.reason := rfl
@[simp] theorem State.retreatPc_mem : (s.retreatPc).mem = s.mem := rfl
@[simp] theorem State.retreatPc_out : (s.retreatPc).out = s.out := rfl
@[simp] theorem State.retreatPc_reports : (s.retreatPc).reports = s.reports := rfl
@[simp] theorem State.retreatPc_readMem (b : Byte) : (s.retreatPc).readMem b = s.readMem b := rfl
@[simp] theorem State.retreatPc_readReg (j : Byte) : (s.retreatPc).readReg j = s.readReg j := rfl

/-- A register read after a register write (R12). -/
@[simp] theorem State.readReg_writeReg (j : Byte) : (s.writeReg i v).readReg j = if i = j then v else s.readReg j := by
  simp [State.writeReg, State.readReg, Vector.getElem_set, BitVec.toNat_inj]

@[simp] theorem State.readReg_writeSelected (j : Byte) :
    (s.writeSelected v).readReg j = if s.cur = j then v else s.readReg j :=
  s.readReg_writeReg v s.cur j

/-- Every register reads 0 at reset (R26). -/
@[simp] theorem State.reset_readReg : State.reset.readReg i = 0 := by
  simp [State.reset, State.readReg]

end Sys2Proof.Machine
end

