-- ==== Sys2Proof/Laws/Exec.lean ====
section
/-!
SUPPORT. What each shared operation can do, said once: the exec equations in named updates, the bytes a step fetches,
and the cases of one step.
-/

namespace Sys2Proof.Machine

variable (s : State) (r0 r1 : Byte)

@[simp] theorem exec_halt : exec .halt s = .next (s.halt .halt) := rfl

@[simp] theorem exec_init : exec .init s = .next ((s.setCur 0).advancePc 1) := rfl

@[simp] theorem exec_set (r : Byte) : exec (.set r) s = .next ((s.setCur r).advancePc 2) := rfl

@[simp] theorem exec_save (imm : Byte) : exec (.save imm) s = .next ((s.writeSelected imm).advancePc 2) := rfl

@[simp] theorem exec_mul :
    exec (.mul r0 r1) s = .next ((s.writeSelected (s.readReg r0 * s.readReg r1)).advancePc 3) := by
  simp [exec, execMul, arithmetic]

@[simp] theorem exec_prn : exec .prn s = .next ((s.emit s.selected).advancePc 1) := rfl

/-- Everything DIV can do (R89). -/
theorem exec_div :
    exec (.div r0 r1) s = .next (if s.readReg r1 = 0 then s.raise .divideByZero
      else (s.writeSelected (s.readReg r0 / s.readReg r1)).advancePc 3) := by
  simp only [exec, execDiv, Alu.div_eq]
  by_cases h : s.readReg r1 = 0
  · rw [if_pos h, if_pos h]
  · rw [if_neg h, if_neg h]

@[simp] theorem exec_inc : exec .inc s = .next (s.advancePc 1) := rfl

@[simp] theorem exec_sub :
    exec (.sub r0 r1) s = .next ((s.writeSelected (s.readReg r0 - s.readReg r1)).advancePc 3) := by
  simp [exec, execSub, arithmetic]

@[simp] theorem exec_add :
    exec (.add r0 r1) s = .next ((s.writeSelected (s.readReg r0 + s.readReg r1)).advancePc 3) := by
  simp [exec, execAdd, arithmetic]

@[simp] theorem exec_dec : exec .dec s = .next s.retreatPc := rfl

@[simp] theorem exec_push : exec .push s = .next (s.advancePc 1) := rfl

@[simp] theorem exec_pop : exec .pop s = .next s.retreatPc := rfl

/-- The entry an opcode byte has is the entry with that byte (R55, R121). -/
theorem Opcode.byte_of_ofByte? {b : Byte} {op : Opcode} (h : Opcode.ofByte? b = some op) : op.byte = b := by
  simpa using List.find?_some h

@[simp] theorem Opcode.ofByte?_byte (op : Opcode) : Opcode.ofByte? op.byte = some op := by
  cases op <;> rfl

/-- The bytes a step reads: as many as the opcode's format has, at `pc`, `pc + 1`, `pc + 2` (R43, R62). -/
theorem State.fetch_eq :
    s.fetch = (match Opcode.ofByte? (s.readMem s.pc) with
      | none => [s.readMem s.pc]
      | some op => match op.format with
        | .f1 => [s.readMem s.pc]
        | .f2 => [s.readMem s.pc, s.readMem (s.pc + 1)]
        | .f3 => [s.readMem s.pc, s.readMem (s.pc + 1), s.readMem (s.pc + 2)]) := by
  unfold State.fetch State.fetchAddrs bytesRead
  cases Opcode.ofByte? (s.readMem s.pc) with
  | none => simp [List.range_succ]
  | some op => cases op <;> simp [Opcode.length, Opcode.format, EncFormat.operandCount, List.range_succ]

/-- The instruction at the program counter, where its opcode byte has this entry: its operands are the bytes that
follow (R56). -/
def State.instrAt (s : State) : Opcode → Instr
  | .halt => .halt
  | .init => .init
  | .set => .set (s.readMem (s.pc + 1))
  | .save => .save (s.readMem (s.pc + 1))
  | .mul => .mul (s.readMem (s.pc + 1)) (s.readMem (s.pc + 2))
  | .prn => .prn
  | .div => .div (s.readMem (s.pc + 1)) (s.readMem (s.pc + 2))
  | .inc => .inc
  | .sub => .sub (s.readMem (s.pc + 1)) (s.readMem (s.pc + 2))
  | .add => .add (s.readMem (s.pc + 1)) (s.readMem (s.pc + 2))
  | .dec => .dec
  | .push => .push
  | .pop => .pop

/-- What the decoder makes of the bytes a step reads: an instruction with no byte left over, or an unknown opcode. -/
theorem decode_fetch :
    decode s.fetch = (match Opcode.ofByte? (s.readMem s.pc) with
      | none => .error (.unknownOpcode (s.readMem s.pc))
      | some op => .ok (s.instrAt op, [])) := by
  rw [State.fetch_eq]
  cases h : Opcode.ofByte? (s.readMem s.pc) with
  | none => simp [decode, h]
  | some op => cases op <;> simp [Opcode.format, decode, h, decodeOperands, State.instrAt]

/-- Everything one step can do (R120): the instruction at `pc`, or the InvalidInstruction condition. -/
theorem stepOnce_eq :
    stepOnce s = (match Opcode.ofByte? (s.readMem s.pc) with
      | none => .next (s.raise .invalidInstruction)
      | some op => exec (s.instrAt op) s) := by
  unfold stepOnce
  rw [decode_fetch]
  cases Opcode.ofByte? (s.readMem s.pc) <;> rfl

/-- The step of a state whose opcode byte is an entry's byte. -/
theorem stepOnce_of_byte (op : Opcode) (h : s.readMem s.pc = op.byte) : stepOnce s = exec (s.instrAt op) s := by
  rw [stepOnce_eq, h, Opcode.ofByte?_byte]

/-- A tick of a running machine is a step (R123). -/
theorem step_of_run (h : s.run = true) : step s = stepOnce s := by simp [step, tick, h]

/-- A tick of a stopped machine changes nothing (R123). -/
theorem step_of_stopped (h : s.run = false) : step s = .next s := by simp [step, tick, h]

end Sys2Proof.Machine
end

