-- ==== Sys2Proof/Laws/PerInstr.lean ====
section
/-!
SUPPORT. A statement about every instruction as syntax, one lemma per constructor: the shape of its encoding (R50,
R54).
-/

namespace Sys2Proof.Laws

/-- An instruction is well formed, its encoding begins with its opcode byte, and it is as long as the opcode map says,
1 to 3 bytes. -/
def EncodingShape.Statement (i : Instr) : Prop :=
  i.wellFormed = true ∧ (encode i).head? = some i.opcode.byte ∧ (encode i).length = i.opcode.length ∧
    (encode i).length ≤ 3

theorem EncodingShape.halt : EncodingShape.Statement .halt :=
  ⟨rfl, rfl, rfl, by simp [encode, Instr.operandBytes]⟩

theorem EncodingShape.init : EncodingShape.Statement .init :=
  ⟨rfl, rfl, rfl, by simp [encode, Instr.operandBytes]⟩

theorem EncodingShape.set (r : Byte) : EncodingShape.Statement (.set r) :=
  ⟨rfl, rfl, rfl, by simp [encode, Instr.operandBytes]⟩

theorem EncodingShape.save (imm : Byte) : EncodingShape.Statement (.save imm) :=
  ⟨rfl, rfl, rfl, by simp [encode, Instr.operandBytes]⟩

theorem EncodingShape.mul (r0 r1 : Byte) : EncodingShape.Statement (.mul r0 r1) :=
  ⟨rfl, rfl, rfl, by simp [encode, Instr.operandBytes]⟩

theorem EncodingShape.prn : EncodingShape.Statement .prn :=
  ⟨rfl, rfl, rfl, by simp [encode, Instr.operandBytes]⟩

theorem EncodingShape.div (r0 r1 : Byte) : EncodingShape.Statement (.div r0 r1) :=
  ⟨rfl, rfl, rfl, by simp [encode, Instr.operandBytes]⟩

theorem EncodingShape.inc : EncodingShape.Statement .inc :=
  ⟨rfl, rfl, rfl, by simp [encode, Instr.operandBytes]⟩

theorem EncodingShape.sub (r0 r1 : Byte) : EncodingShape.Statement (.sub r0 r1) :=
  ⟨rfl, rfl, rfl, by simp [encode, Instr.operandBytes]⟩

theorem EncodingShape.add (r0 r1 : Byte) : EncodingShape.Statement (.add r0 r1) :=
  ⟨rfl, rfl, rfl, by simp [encode, Instr.operandBytes]⟩

theorem EncodingShape.dec : EncodingShape.Statement .dec :=
  ⟨rfl, rfl, rfl, by simp [encode, Instr.operandBytes]⟩

theorem EncodingShape.push : EncodingShape.Statement .push :=
  ⟨rfl, rfl, rfl, by simp [encode, Instr.operandBytes]⟩

theorem EncodingShape.pop : EncodingShape.Statement .pop :=
  ⟨rfl, rfl, rfl, by simp [encode, Instr.operandBytes]⟩

end Sys2Proof.Laws
end

