-- ==== Sys2Proof/Tests/Slice0.lean ====
section
/-!
SUPPORT. Tests against the spec's own vectors (95_test_vectors.md and the worked examples of the rules), the decoder
against words written out from the encodings, and the witnesses of the obligations' hypotheses.
-/

namespace Sys2Proof.Tests

open Sys2Proof.Machine

/-- A running machine at an address, with some memory bytes, some registers and a selector. -/
def at_ (pc : Byte) (bytes : List (Byte × Byte)) (regs : List (Byte × Byte)) (cur : Byte) : State :=
  let s := bytes.foldl (fun s c => s.writeMem c.1 c.2) State.reset
  let s := regs.foldl (fun s c => s.writeReg c.1 c.2) s
  { s with pc := pc, cur := cur, run := true }

/-- A field of the next state, where there is one. -/
def seen {α : Type} (f : State → α) : Host.Outcome State Fault Refusal → Option α
  | .next t => some (f t)
  | .fault _ => none
  | .refused _ => none

/-- The refusal, where there is one. -/
def refusal : Host.Outcome State Fault Refusal → Option Refusal
  | .refused r => some r
  | .next _ => none
  | .fault _ => none

/-- The instruction decoded and the bytes left, or the reason there is none. -/
def read (bs : List Byte) : (Instr × List Byte) ⊕ DecodeError :=
  match decode bs with
  | .ok r => .inl r
  | .error e => .inr e

/-! ## Well-formedness (R33, R56, R60): each check refuses an ill-formed term -/

theorem test_fits_edge : fitsByte 255 = true ∧ fitsByte 256 = false := by decide

theorem test_line_operand_too_big : (SourceLine.instr .set [256]).wellFormed = false := by decide

theorem test_line_immediate_too_big : (SourceLine.instr .save [255, 256]).wellFormed = false := by decide

theorem test_line_operand_missing : (SourceLine.instr .mul [1]).wellFormed = false := by decide

theorem test_line_operand_extra : (SourceLine.instr .halt [0]).wellFormed = false := by decide

theorem test_line_raw_byte_too_big : (SourceLine.byte 256).wellFormed = false := by decide

/-- Every instruction is well formed (R56), at the edges of an operand too. -/
theorem test_instr_well_formed : (Instr.set 255).wellFormed = true ∧ (Instr.div 0 0).wellFormed = true := by decide

/-! ## Decoding: every constructor by a word written out from R55 -/

theorem test_decode_halt : read [0b00000000, 0x77] = .inl (.halt, [0x77]) := by decide

theorem test_decode_init : read [0b00000001, 0x77] = .inl (.init, [0x77]) := by decide

theorem test_decode_set : read [0b00000010, 0b10100101, 0x77] = .inl (.set 0xA5, [0x77]) := by decide

theorem test_decode_save : read [0b00000100, 0b11111111, 0x77] = .inl (.save 0xFF, [0x77]) := by decide

theorem test_decode_mul : read [0b00000101, 0b00000010, 0b00000011, 0x77] = .inl (.mul 2 3, [0x77]) := by decide

theorem test_decode_prn : read [0b00000110, 0x77] = .inl (.prn, [0x77]) := by decide

theorem test_decode_div : read [0b00001001, 0b00000000, 0b00000001, 0x77] = .inl (.div 0 1, [0x77]) := by decide

theorem test_decode_inc : read [0b00001011, 0x77] = .inl (.inc, [0x77]) := by decide

theorem test_decode_sub : read [0b00001101, 0b00000011, 0b00000010, 0x77] = .inl (.sub 3 2, [0x77]) := by decide

theorem test_decode_add : read [0b00001111, 0b10000000, 0b11111111, 0x77] = .inl (.add 0x80 0xFF, [0x77]) := by decide

theorem test_decode_dec : read [0b00010001, 0x77] = .inl (.dec, [0x77]) := by decide

theorem test_decode_push : read [0b00011001, 0x77] = .inl (.push, [0x77]) := by decide

theorem test_decode_pop : read [0b00011101, 0x77] = .inl (.pop, [0x77]) := by decide

/-- V-INV-3's bytes and the edges of the ranges of R57 are unknown opcodes. -/
theorem test_decode_unknown :
    ([0x03, 0x07, 0x08, 0x0A, 0x0C, 0x0E, 0x10, 0x12, 0x18, 0x1A, 0x1C, 0x1E, 0x1F, 0x20, 0x80, 0xFF] : List Byte).all
      (fun b => read [b, 1, 2] == .inr (.unknownOpcode b)) = true := by decide

theorem test_decode_short : read [0x05, 2] = .inr (.missingOperand .mul) ∧ read [] = .inr .noBytes := by decide

theorem test_encode_sub : encode (.sub 3 2) = [0x0D, 0x03, 0x02] := by decide

theorem test_table_word_set : decodeTableWord 16 0b0000000100000010 = some (.set 1) := by decide

/-- Bits above the row's are 0: an operand the table gives no bits is 0. -/
theorem test_table_word_short : decodeTableWord 8 0xFFFF0F = some (.add 0 0) := by decide

/-! ## The ALU (vectors of 95_test_vectors.md 2.1) -/

theorem test_alu_add : Alu.add 255 255 = 254 ∧ Alu.add 128 128 = 0 := by decide

theorem test_alu_sub : Alu.sub 32 200 = 88 ∧ Alu.sub 0 1 = 255 := by decide

theorem test_alu_mul : Alu.mul 200 100 = 32 ∧ Alu.mul 255 255 = 1 := by decide

theorem test_alu_div : Alu.div 254 2 = some 127 ∧ Alu.div 254 255 = some 0 ∧ Alu.div 0 0 = none := by decide

theorem test_alu_inc_dec : Alu.inc 254 = 255 ∧ Alu.inc 255 = 0 ∧ Alu.dec 1 = 0 ∧ Alu.dec 0 = 255 := by decide

/-! ## One step of each instruction (vectors of 95_test_vectors.md 2.2 to 2.6) -/

/-- V-INIT-1. -/
theorem test_init : seen (fun t => (t.pc, t.cur, t.readReg 7)) (step (at_ 4 [(4, 0x01)] [(7, 9)] 7)) = some (5, 0, 9) := by
  decide

/-- V-SET-4 (decision D3): the operand is read across the top of memory. -/
theorem test_set_straddles : seen (fun t => (t.pc, t.cur)) (step (at_ 255 [(255, 0x02), (0, 0x1D)] [] 0)) = some (1, 29) := by
  decide

/-- V-SAVE-3. -/
theorem test_save : seen (fun t => (t.pc, t.readReg 255, t.cur)) (step (at_ 2 [(2, 0x04), (3, 0xFF)] [] 255)) =
    some (4, 255, 255) := by decide

/-- V-MUL-1: the product wraps, the destination is also the right operand. -/
theorem test_mul : seen (fun t => (t.pc, t.readReg 3, t.readReg 2))
    (step (at_ 8 [(8, 0x05), (9, 2), (10, 3)] [(2, 200), (3, 100)] 3)) = some (11, 32, 200) := by decide

/-- V-DIV-3: the divisor register is overwritten with the quotient. -/
theorem test_div : seen (fun t => (t.pc, t.readReg 1))
    (step (at_ 0 [(0, 0x09), (1, 0), (2, 1)] [(0, 100), (1, 7)] 1)) = some (3, 14) := by decide

/-- V-DIV-5: a zero divisor. -/
theorem test_div_by_zero : seen (fun t => (t.pc, t.readReg 2, t.run, t.reason, t.reports))
    (step (at_ 14 [(14, 0x09), (15, 0), (16, 3)] [(0, 17), (2, 3)] 2)) =
      some (14, 3, false, .divideByZero, [⟨.divideByZero, 14, 0x09⟩]) := by decide

/-- V-SUB-1. -/
theorem test_sub : seen (fun t => t.readReg 2)
    (step (at_ 0 [(0, 0x0D), (1, 0), (2, 1)] [(0, 3), (1, 5)] 2)) = some 254 := by decide

/-- V-SUB-2: the order of the operands. -/
theorem test_sub_order : seen (fun t => t.readReg 2)
    (step (at_ 0 [(0, 0x0D), (1, 1), (2, 0)] [(0, 3), (1, 5)] 2)) = some 2 := by decide

/-- V-ADD-3: both sources are the destination. -/
theorem test_add_aliased : seen (fun t => (t.pc, t.readReg 0))
    (step (at_ 0 [(0, 0x0F), (1, 0), (2, 0)] [(0, 200)] 0)) = some (3, 144) := by decide

/-- V-ADD-5 (decision D3): both operands lie past the top of memory. -/
theorem test_add_straddles : seen (fun t => (t.pc, t.readReg 0))
    (step (at_ 255 [(255, 0x0F), (0, 0x1D), (1, 0x00)] [(29, 9)] 0)) = some (2, 9) := by decide

/-- V-PRN-1. -/
theorem test_prn : seen (fun t => (t.pc, t.out, t.readReg 1)) (step (at_ 11 [(11, 0x06)] [(1, 8)] 1)) =
    some (12, [8], 8) := by decide

/-- V-HALT-1. -/
theorem test_halt : seen (fun t => (t.pc, t.run, t.reason, t.reports)) (step (at_ 12 [] [] 0)) =
    some (12, false, .halt, []) := by decide

/-- V-PUSH-2: the program counter wraps and nothing is pushed. -/
theorem test_push : seen (fun t => (t.pc, t.sp, t.mem)) (step (at_ 255 [(255, 0x19)] [] 0)) =
    some (0, 255, [(255, 0x19)]) := by decide

/-- V-POP-2: the program counter wraps backwards. -/
theorem test_pop : seen (fun t => (t.pc, t.sp)) (step (at_ 0 [(0, 0x1D)] [] 0)) = some (255, 255) := by decide

/-- V-INC-1 (decision D5). -/
theorem test_inc : seen (fun t => (t.pc, t.readReg 0)) (step (at_ 3 [(3, 0x0B)] [(0, 7)] 0)) = some (4, 7) := by decide

/-- V-INC-1' (the other value of the switch). -/
theorem test_inc_invalid : seen (fun t => (t.pc, t.run, t.reports))
    (reservedEntry .invalid (fun t => t.advancePc 1) (at_ 3 [(3, 0x0B)] [(0, 7)] 0)) =
      some (3, false, [⟨.invalidInstruction, 3, 0x0B⟩]) := by decide

/-- V-DEC-1 (decision D5). -/
theorem test_dec : seen (fun t => t.pc) (step (at_ 3 [(3, 0x11)] [] 0)) = some 2 := by decide

/-- V-INV-1. -/
theorem test_unknown_opcode : seen (fun t => (t.pc, t.readReg 0, t.run, t.reason, t.reports))
    (step (at_ 5 [(5, 0x03)] [(0, 7)] 0)) =
      some (5, 7, false, .invalidInstruction, [⟨.invalidInstruction, 5, 0x03⟩]) := by decide

/-- The addresses read for each format at the top of memory (R43, R51 to R53), and for an unknown opcode. -/
theorem test_fetch_addresses : (at_ 255 [(255, 0x02)] [] 0).fetchAddrs = [255, 0] ∧
    (at_ 255 [(255, 0x0F)] [] 0).fetchAddrs = [255, 0, 1] ∧ (at_ 255 [(255, 0x1D)] [] 0).fetchAddrs = [255] ∧
    (at_ 255 [(255, 0x03)] [] 0).fetchAddrs = [255] := by decide

/-! ## The scheduler and the host (95_test_vectors.md part 4) -/

/-- V-HOST-3: a tick without a start. -/
theorem test_tick_not_started : seen (fun t => (t.run, t.pc, t.reason)) (step State.reset) = some (false, 0, .none) := by
  decide

/-- V-HOST-2: the later poke wins. -/
theorem test_later_poke_wins : ((State.reset.writeMem 0 1).writeMem 0 6).mem = [(0, 6)] := by decide

/-- Writing back what an unlisted address reads as removes the entry. -/
theorem test_poke_zero_unlists : (((State.reset.writeMem 9 1).writeMem 3 6).writeMem 9 0).mem = [(3, 6)] := by decide

/-- V-HOST-6's ending: a stop by the host is told apart from HALT. -/
theorem test_external_stop : ((at_ 6 [] [] 1).stop.run, (at_ 6 [] [] 1).stop.reason) = (false, Reason.externalStop) := by
  decide

/-- V-HOST-7: a stop after a HALT changes nothing. -/
theorem test_stop_after_halt : ((at_ 6 [] [] 1).halt .halt).stop.reason = .halt := by decide

theorem test_poke_refused : refusal (poke 256 0 State.reset) = some (.pokeOutOfRange 256 0) ∧
    refusal (poke 0 0 (at_ 0 [] [] 0)) = some .pokeWhileRunning := by decide

/-- An opcode-table word placed at reset is the next instruction. -/
theorem test_with_fetch_word : seen (fun t => (t.pc, t.cur, t.run)) (step (State.reset.withFetchWord 16 0x0702)) =
    some (2, 7, true) := by decide

/-! ## The assembly syntax (the table of R60) -/

theorem test_asm_set : assembleText "SET r255 ; select" = some [0x02, 255] := by decide

theorem test_asm_save_hex : assembleText "SAVE 0xC8" = some [0x04, 200] := by decide

theorem test_asm_sub : assembleText "SUB r3, r2" = some [0x0D, 3, 2] := by decide

theorem test_asm_byte : assembleText ".byte 0x03" = some [0x03] := by decide

theorem test_asm_short_lines : ["HALT", "INIT", "PRN", "INC", "DEC", "PUSH", "POP"].map assembleText =
    [some [0x00], some [0x01], some [0x06], some [0x0B], some [0x11], some [0x19], some [0x1D]] := by decide

theorem test_asm_refused : ["NOP", "SET 1", "SAVE r1", "SAVE 256", "ADD r1 r2", "ADD r1, r256"].map assembleText =
    [none, none, none, none, none, none] := by decide

/-! ## Witnesses: the hypotheses of each obligation can be met -/

/-- A running machine at each of two instructions of every kind the witnesses need. -/
abbrev prnAt : State := at_ 11 [(11, 0x06)] [(1, 8)] 1

theorem witness_canonical : Memory.wf [(3, 7), (255, 1)] ∧
    ∀ addr : Byte, Memory.read [(3, 7), (255, 1)] addr = Memory.read [(3, 7), (255, 1)] addr :=
  ⟨by decide, fun _ => rfl⟩

theorem witness_encode : (Instr.add 0 255).wellFormed = true := by decide

theorem witness_decode : decode [0x02, 255, 9] = .ok (.set 255, [9]) := rfl

theorem witness_assembled : (SourceLine.instr .add [0, 255]).wellFormed = true ∧
    (SourceLine.instr .save [255]).wellFormed = true ∧ (SourceLine.instr .halt []).wellFormed = true := by decide

theorem witness_div_operands : (255 : Byte) ≠ 0 ∧ (1 : Byte) ≠ 0 ∧ (254 : Byte).toNat < (255 : Byte).toNat ∧
    (0 : Byte).toNat < (1 : Byte).toNat := by decide

/-- A state at each opcode byte, at the top of memory. -/
theorem witness_opcode_at_pc :
    ([0x00, 0x01, 0x02, 0x04, 0x05, 0x06, 0x09, 0x0B, 0x0D, 0x0F, 0x11, 0x19, 0x1D] : List Byte).all
      (fun b => (at_ 255 [(255, b)] [] 0).readMem (at_ 255 [(255, b)] [] 0).pc == b) = true := by decide

theorem witness_divisor : (at_ 0 [] [(5, 1)] 0).readReg 5 ≠ 0 ∧ (at_ 0 [] [(5, 1)] 0).readReg 4 = 0 := by decide

theorem witness_unknown_opcode :
    (at_ 5 [(5, 0x03)] [] 0).readMem 5 ∉ ([0x00, 0x01, 0x02, 0x04, 0x05, 0x06, 0x09, 0x0B, 0x0D, 0x0F, 0x11, 0x19, 0x1D] : List Byte) ∧
    (at_ 5 [(5, 0xFF)] [] 0).readMem 5 ∉ ([0x00, 0x01, 0x02, 0x04, 0x05, 0x06, 0x09, 0x0B, 0x0D, 0x0F, 0x11, 0x19, 0x1D] : List Byte) := by
  decide

theorem witness_zero_divisor : (at_ 254 [(254, 0x09), (0, 3)] [] 0).readMem 254 = 0x09 ∧
    (at_ 254 [(254, 0x09), (0, 3)] [] 0).readReg ((at_ 254 [(254, 0x09), (0, 3)] [] 0).readMem (254 + 2)) = 0 := by decide

/-- A step that reports. -/
theorem witness_reporting_step : ∃ t, stepOnce (at_ 5 [(5, 0x03)] [] 0) = .next t ∧ t.reports ≠ (at_ 5 [(5, 0x03)] [] 0).reports :=
  ⟨_, rfl, by decide⟩

theorem witness_tick_decodes : prnAt.run = true ∧ Instr.prn.wellFormed = true ∧ decode prnAt.fetch = .ok (.prn, []) :=
  ⟨rfl, rfl, rfl⟩

theorem witness_tick_unknown : (at_ 5 [(5, 0x03)] [] 0).run = true ∧
    decode (at_ 5 [(5, 0x03)] [] 0).fetch = .error (.unknownOpcode 3) := ⟨rfl, rfl⟩

/-- Each clause of the statements about `exec i s = next t`: SET, INIT, a register writer, PRN, another, and a DIV that
reports. -/
theorem witness_exec_next : (∃ t, exec (.set 255) prnAt = .next t) ∧ (∃ t, exec .init prnAt = .next t) ∧
    (∃ t, exec (.add 0 255) prnAt = .next t) ∧ (∃ t, exec .prn prnAt = .next t) ∧ (∃ t, exec .halt prnAt = .next t) ∧
    ∃ t, exec (.div 1 0) prnAt = .next t ∧ t.reports ≠ prnAt.reports :=
  ⟨⟨_, rfl⟩, ⟨_, rfl⟩, ⟨_, rfl⟩, ⟨_, rfl⟩, ⟨_, rfl⟩, _, rfl, by decide⟩

/-- Each kind of transaction answers a next state; the poke at the last address and value. -/
theorem witness_transactions : (∃ t, transact (.poke 255 255) State.reset = .next t) ∧
    (∃ t, transact .reset prnAt = .next t) ∧ (∃ t, transact .start State.reset = .next t) ∧
    (∃ t, transact .stop prnAt = .next t) ∧ (∃ t, transact .tick prnAt = .next t) ∧
    Transaction.poke 255 255 ≠ .reset ∧ Transaction.tick ≠ .reset :=
  ⟨⟨_, rfl⟩, ⟨_, rfl⟩, ⟨_, rfl⟩, ⟨_, rfl⟩, ⟨_, rfl⟩, by decide, by decide⟩

theorem witness_stopped_and_running : (prnAt.halt .halt).run = false ∧ prnAt.run = true ∧ prnAt.reason = .none := by
  decide

theorem witness_poke : State.reset.run = false ∧ 255 < 256 ∧ prnAt.run = true ∧ (256 ≤ 256 ∨ 256 ≤ 0) ∧
    (256 ≤ 0 ∨ 256 ≤ 256) := by decide

/-- A stopped machine with a canonical memory, and two addresses and two values at the edges. -/
theorem witness_pokes_commute : Memory.wf prnAt.stop.mem ∧ prnAt.stop.run = false ∧ 0 < 256 ∧ 255 < 256 ∧
    (0 : Nat) ≠ 255 ∧ (0 : Byte) ≠ 255 := by decide

/-- The opcode itself poked, and an operand across the top of memory poked. -/
theorem witness_poke_then_fetch :
    (∃ t, poke (11 : Byte).toNat (0xFF : Byte).toNat prnAt.stop = .next t) ∧
    ∃ t, poke (0 : Byte).toNat (7 : Byte).toNat (at_ 255 [(255, 0x02)] [] 0).stop = .next t := ⟨⟨_, rfl⟩, ⟨_, rfl⟩⟩

/-- A step that halts, and one that raises a condition. -/
theorem witness_step_stops :
    ((at_ 12 [] [] 0).run = true ∧ ∃ t, step (at_ 12 [] [] 0) = .next t ∧ t.run = false) ∧
    ((at_ 5 [(5, 0x03)] [] 0).run = true ∧ ∃ t, step (at_ 5 [(5, 0x03)] [] 0) = .next t ∧ t.run = false) :=
  ⟨⟨rfl, _, rfl, rfl⟩, ⟨rfl, _, rfl, rfl⟩⟩

theorem witness_no_reason : (at_ 0 [(0, 0x06)] [] 0).reason = .none ∧ State.reset.reason = .none := by decide

/-- A running machine at a PRN whose report trace holds an earlier DivideByZero. -/
abbrev prnAgain : State := { at_ 11 [(11, 0x06)] [(1, 9)] 1 with reports := [⟨.divideByZero, 14, 0x09⟩] }

/-- Two machines with other registers and other report traces, the same program counter, selector and memory, and two
ticks without a divide-by-zero report more. -/
theorem witness_same_control : prnAt.mem = prnAgain.mem ∧ prnAt.pc = prnAgain.pc ∧ prnAt.cur = prnAgain.cur ∧
    prnAt.run = prnAgain.run ∧ prnAt.readReg 1 ≠ prnAgain.readReg 1 ∧
    (∃ t, runTicks 2 prnAt = .next t ∧ ∀ r ∈ t.reports.drop prnAt.reports.length, r.kind ≠ .divideByZero) ∧
    (∃ t, runTicks 2 prnAgain = .next t ∧ ∀ r ∈ t.reports.drop prnAgain.reports.length, r.kind ≠ .divideByZero) :=
  ⟨by decide, rfl, rfl, rfl, by decide, ⟨_, rfl, by decide⟩, ⟨_, rfl, by decide⟩⟩

/-- An opcode-table word of each length the decoder reads. -/
theorem witness_placed_word : decodeTableWord 8 0x06 = some .prn ∧ decodeTableWord 16 0xFF02 = some (.set 255) ∧
    decodeTableWord 24 0xFF000F = some (.add 0 255) := by decide

/-- A pair at the top of memory: PRN at 255, POP at 0; and INC with DEC. -/
theorem witness_back_step_pair :
    (at_ 255 [(255, 0x06), (0, 0x1D)] [] 0).run = true ∧
    (at_ 255 [(255, 0x06), (0, 0x1D)] [] 0).readMem 255 ∈ ([0x01, 0x06, 0x0B, 0x19] : List Byte) ∧
    (at_ 255 [(255, 0x06), (0, 0x1D)] [] 0).readMem (255 + 1) ∈ ([0x11, 0x1D] : List Byte) ∧
    (at_ 3 [(3, 0x0B), (4, 0x11)] [] 0).readMem 3 ∈ ([0x01, 0x06, 0x0B, 0x19] : List Byte) ∧
    (at_ 3 [(3, 0x0B), (4, 0x11)] [] 0).readMem (3 + 1) ∈ ([0x11, 0x1D] : List Byte) := by decide

/-- A memory that holds INIT everywhere (P8). -/
def allInit : State := { State.reset with mem := (List.range 256).map (fun n => (n, 0x01)), run := true }

theorem witness_advancing_memory : allInit.run = true ∧
    ∀ addr : Byte, allInit.readMem addr ∈ ([0x01, 0x06, 0x0B, 0x19] : List Byte) := by
  have found : ∀ (l : List Nat) (a : Nat), a ∈ l → Memory.lookup (l.map (fun n => (n, 0x01))) a = 0x01 := by
    intro l a h
    induction l with
    | nil => simp at h
    | cons b l ih =>
      by_cases e : b = a
      · simp [Memory.lookup, e]
      · simpa [Memory.lookup, e] using ih ((List.mem_cons.mp h).resolve_left (Ne.symm e))
  refine ⟨rfl, fun addr => ?_⟩
  have : allInit.readMem addr = 0x01 := found _ _ (List.mem_range.mpr addr.isLt)
  simp [this]

/-- A running machine with the invariant, whose step answers a next state; the transactions' too. -/
theorem witness_invariant : prnAt.Inv ∧ (∃ t, step prnAt = .next t) ∧ ∃ t, transact .stop prnAt = .next t :=
  ⟨⟨by decide, rfl, fun _ => rfl, (fun c h => by cases c <;> cases h), fun _ h => absurd h List.not_mem_nil⟩,
    ⟨_, rfl⟩, ⟨_, rfl⟩⟩

end Sys2Proof.Tests
end

