-- ==== Sys2Proof/Proofs/RegistersSelectorStackPointer.lean ====
section
/-!
PROOFS. The registers, the selector and the stack pointer (10_state.md sections 2 to 5): what `exec` does to `cur` and
`sp`. Each case split below is over the instruction; all but DIV have one outcome, and `exec_div_cases` gives DIV's two.
-/

namespace Sys2Proof.Machine

/-- The two ways DIV completes (R89): it raises DivideByZero, or writes the quotient and advances. -/
theorem exec_div_cases {r0 r1 : Byte} {s t : State} (h : exec (.div r0 r1) s = .next t) :
    (s.readReg r1 = 0 ∧ t = s.raise .divideByZero) ∨
      (s.readReg r1 ≠ 0 ∧ t = (s.writeSelected (s.readReg r0 / s.readReg r1)).advancePc 3) := by
  rw [exec_div] at h
  cases h
  by_cases h0 : s.readReg r1 = 0
  · exact .inl ⟨h0, if_pos h0⟩
  · exact .inr ⟨h0, if_neg h0⟩

/-- The state with another value in the stack pointer. No instruction does this (R16). -/
def State.setSp (s : State) (v : Byte) : State := { s with sp := v }

section
variable (s : State) (v : Byte)

/-! Reads do not see the stack pointer, and every named update commutes with a change of it. -/

@[simp] theorem State.setSp_readReg (j : Byte) : (s.setSp v).readReg j = s.readReg j := rfl
@[simp] theorem State.setSp_selected : (s.setSp v).selected = s.selected := rfl
@[simp] theorem State.setSp_setCur (r : Byte) : (s.setSp v).setCur r = (s.setCur r).setSp v := rfl
@[simp] theorem State.setSp_writeSelected (b : Byte) : (s.setSp v).writeSelected b = (s.writeSelected b).setSp v := rfl
@[simp] theorem State.setSp_emit (b : Byte) : (s.setSp v).emit b = (s.emit b).setSp v := rfl
@[simp] theorem State.setSp_advancePc (n : Nat) : (s.setSp v).advancePc n = (s.advancePc n).setSp v := rfl
@[simp] theorem State.setSp_retreatPc : (s.setSp v).retreatPc = s.retreatPc.setSp v := rfl
@[simp] theorem State.setSp_halt (q : Reason) : (s.setSp v).halt q = (s.halt q).setSp v := rfl
@[simp] theorem State.setSp_raise (c : Condition) : (s.setSp v).raise c = (s.raise c).setSp v := rfl

end

/-- No instruction writes the stack pointer (R16). -/
theorem exec_sp {i : Instr} {s t : State} (h : exec i s = .next t) : t.sp = s.sp := by
  cases i with
  | div r0 r1 => obtain ⟨-, rfl⟩ | ⟨-, rfl⟩ := exec_div_cases h <;> simp
  | _ => cases h; rfl

/-- No instruction reads the stack pointer (R16): execution commutes with a change of it. -/
theorem exec_setSp {i : Instr} {s t : State} (v : Byte) (h : exec i s = .next t) :
    exec i (s.setSp v) = .next (t.setSp v) := by
  cases i with
  | div r0 r1 =>
    rw [exec_div, State.setSp_readReg]
    obtain ⟨h0, rfl⟩ | ⟨h0, rfl⟩ := exec_div_cases h
    · rw [if_pos h0, State.setSp_raise]
    · rw [if_neg h0]; simp
  | _ => cases h; simp [arithmetic]

/-- Settles O34, by cases on the instruction: only the updates of SET and INIT have a `setCur`. -/
theorem selectorWrittenOnlyBySetAndInit : Obligations.SelectorWrittenOnlyBySetAndInit := by
  refine ⟨fun i s t h => ?_, State.raise_cur⟩
  cases i with
  | div r0 r1 => obtain ⟨-, rfl⟩ | ⟨-, rfl⟩ := exec_div_cases h <;> simp
  | _ => cases h; rfl

/-- Settles O35: `exec_sp` says that `sp` is not written, `exec_setSp` that it is not read. -/
theorem stackPointerNeitherReadNorWritten : Obligations.StackPointerNeitherReadNorWritten :=
  ⟨fun _ _ _ v h => ⟨exec_sp h, exec_setSp v h⟩, rfl⟩

/-- Settles O2, by the read-after-write law of the registers and their reset value. -/
theorem registerReadGivesLastWrite : Obligations.RegisterReadGivesLastWrite :=
  ⟨fun s i j v => s.readReg_writeReg v i j, State.reset_readReg⟩

end Sys2Proof.Machine
end

/-!
PROOFS. Memory (20_memory.md): the byte last written is the byte read. The read-after-write law and the reset value are
the model's own laws of the memory list.
-/

namespace Sys2Proof.Machine

/-- Settles O3, by the read-after-write law of memory and the empty memory of the reset state. -/
theorem memoryReadGivesLastWrite : Obligations.MemoryReadGivesLastWrite :=
  ⟨State.readMem_writeMem, State.reset_readMem⟩

end Sys2Proof.Machine

/-!
PROOFS. The selector and move instructions (40_selector_and_move.md): a change of the selector and an advance of `pc`
both stay within the quiet frame.
-/

namespace Sys2Proof.Machine

/-- A write of the selector leaves the stack pointer, memory, the status and the reports alone (R19). -/
theorem State.quietFrame_setCur (s : State) (r : Byte) : s.QuietFrame (s.setCur r) :=
  ⟨s.setCur_sp r, s.setCur_readMem r, ⟨s.setCur_run r, s.setCur_reason r⟩, s.setCur_reports r⟩

/-- An advance of `pc` after a quiet update is quiet (R15). -/
theorem State.QuietFrame.advancePc {s t : State} (h : s.QuietFrame t) (n : Nat) : s.QuietFrame (t.advancePc n) := by
  obtain ⟨hsp, hmem, hstatus, hreports⟩ := h
  exact ⟨hsp, hmem, hstatus, hreports⟩

/-- Settles O15: `exec_init` gives the state INIT answers, and `stepOnce_of_byte` that a step at its opcode runs it. -/
theorem initSelectsRegisterZero : Obligations.InitSelectsRegisterZero := by
  refine ⟨fun s => ⟨(s.setCur 0).advancePc 1, exec_init s, ?_⟩, fun s h => stepOnce_of_byte s .init h⟩
  have hpc : ((s.setCur 0).advancePc 1).pc = s.pc + 1 := Alu.incBy_eq 1 s.pc
  exact ⟨rfl, hpc, fun _ => rfl, rfl, (s.quietFrame_setCur 0).advancePc 1⟩

end Sys2Proof.Machine

/-!
PROOFS. The ALU primitives (41_arithmetic.md section 1): each result as a number. Every primitive but `div` computes on
integers and then reduces modulo 256, so `coe_toNat_narrow` gives its number; where a rule speaks of bytes, the model's
laws `Alu.add_eq` to `Alu.div_eq` turn it into a fact of bit-vector arithmetic.
-/

namespace Sys2Proof.Machine

/-- Reduction modulo 256 gives the remainder in 0 to 255, also of a negative number (R11). -/
theorem coe_toNat_narrow (n : Int) : ((narrow n).toNat : Int) = n % 256 := by
  have hnonneg : 0 ≤ n % 256 := Int.emod_nonneg n (by decide)
  rw [narrow, BitVec.toNat_ofInt]
  exact Int.toNat_of_nonneg hnonneg

section
variable (a b : Byte)

theorem Alu.toNat_add : (Alu.add a b).toNat = (a.toNat + b.toNat) % 256 :=
  Int.ofNat_inj.mp (coe_toNat_narrow (a.toNat + b.toNat))

theorem Alu.coe_toNat_sub : ((Alu.sub a b).toNat : Int) = ((a.toNat : Int) - b.toNat) % 256 :=
  coe_toNat_narrow (a.toNat - b.toNat)

theorem Alu.toNat_mul : (Alu.mul a b).toNat = a.toNat * b.toNat % 256 :=
  Int.ofNat_inj.mp (coe_toNat_narrow (a.toNat * b.toNat))

theorem Alu.toNat_inc : (Alu.inc a).toNat = (a.toNat + 1) % 256 :=
  Int.ofNat_inj.mp (coe_toNat_narrow (a.toNat + 1))

theorem Alu.coe_toNat_dec : ((Alu.dec a).toNat : Int) = ((a.toNat : Int) - 1) % 256 :=
  coe_toNat_narrow (a.toNat - 1)

/-- `n` applications of `inc` add `n` modulo 256 (R15, R43). -/
theorem Alu.toNat_incBy (n : Nat) : (Alu.incBy n a).toNat = (a.toNat + n) % 256 := by
  rw [Alu.incBy_eq, BitVec.toNat_add, BitVec.toNat_ofNat, Nat.add_mod_mod]

/-- The sum of two bytes is at most 510, so one subtraction of 256 reduces it (R80). -/
theorem Alu.toNat_add_cases : (Alu.add a b).toNat =
    if a.toNat + b.toNat < 256 then a.toNat + b.toNat else a.toNat + b.toNat - 256 := by
  have hsum := Alu.toNat_add a b
  have ha := a.isLt
  have hb := b.isLt
  split <;> omega

/-- The difference of two bytes is above -256, so one addition of 256 reduces it (R81). -/
theorem Alu.toNat_sub_cases : (Alu.sub a b).toNat =
    if b.toNat ≤ a.toNat then a.toNat - b.toNat else a.toNat + 256 - b.toNat := by
  have hdiff := Alu.coe_toNat_sub a b
  have ha := a.isLt
  have hb := b.isLt
  split <;> omega

/-- The negation of a byte modulo 256 (R81). -/
theorem Alu.toNat_zero_sub : (Alu.sub 0 b).toNat = (256 - b.toNat) % 256 := by
  have hneg : Alu.sub 0 b = -b := (Alu.sub_eq 0 b).trans (BitVec.zero_sub b)
  rw [hneg, BitVec.toNat_neg]

/-- The low byte of the product does not depend on the reading of the operands (R82, R92): reduction modulo 256 maps
products to products, and each operand's two's-complement reading reduces to the operand. -/
theorem Alu.mul_eq_ofInt_toInt : Alu.mul a b = BitVec.ofInt 8 (a.toInt * b.toInt) := by
  rw [Alu.mul_eq, BitVec.ofInt_mul, BitVec.ofInt_toInt, BitVec.ofInt_toInt]

end

section
variable {a b : Byte}

/-- With the guard passed, `div` is the unsigned quotient (R83). -/
theorem Alu.div_of_ne_zero (h : b ≠ 0) : Alu.div a b = some (a / b) :=
  (Alu.div_eq a b).trans (if_neg h)

theorem Alu.div_self (h : a ≠ 0) : Alu.div a a = some 1 := by
  have hquot : a / a = 1 := by rw [BitVec.udiv_self, if_neg (by simpa using h)]; rfl
  rw [Alu.div_of_ne_zero h, hquot]

/-- A dividend below the divisor gives 0 (R83); the divisor is then not 0. -/
theorem Alu.div_of_lt (h : a.toNat < b.toNat) : Alu.div a b = some 0 := by
  have hb : b ≠ 0 := by rintro rfl; exact Nat.not_lt_zero _ h
  have hquot : a / b = 0 := BitVec.udiv_eq_zero_iff_eq_zero_or_lt.mpr (.inr h)
  rw [Alu.div_of_ne_zero hb, hquot]

end

/-- Settles O10, by the sum as a number and the laws of bit-vector addition. -/
theorem addWrapsModulo256 : Obligations.AddWrapsModulo256 := by
  refine ⟨fun a b => ⟨Alu.toNat_add a b, Alu.toNat_add_cases a b, ?comm⟩, fun a => ?zero, by decide⟩
  case comm => rw [Alu.add_eq, Alu.add_eq, BitVec.add_comm]
  case zero => exact (Alu.add_eq a 0).trans (BitVec.add_zero a)

/-- Settles O11, by the difference as a number and the laws of bit-vector subtraction. -/
theorem subWrapsOnNegative : Obligations.SubWrapsOnNegative := by
  refine ⟨fun a b => ⟨Alu.coe_toNat_sub a b, Alu.toNat_sub_cases a b⟩,
    fun a => ⟨?zero, ?self, Alu.toNat_zero_sub a⟩, by decide⟩
  case zero => exact (Alu.sub_eq a 0).trans (BitVec.sub_zero a)
  case self => exact (Alu.sub_eq a a).trans (BitVec.sub_self a)

/-- Settles O12, by the product as a number, its signed reading and the laws of bit-vector multiplication. -/
theorem mulKeepsTheLowByte : Obligations.MulKeepsTheLowByte := by
  refine ⟨fun a b => ⟨Alu.toNat_mul a b, ?comm, Alu.mul_eq_ofInt_toInt a b⟩, fun a => ⟨?zero, ?one⟩, by decide⟩
  case comm => rw [Alu.mul_eq, Alu.mul_eq, BitVec.mul_comm]
  case zero => exact (Alu.mul_eq a 0).trans BitVec.mul_zero
  case one => exact (Alu.mul_eq a 1).trans (BitVec.mul_one a)

/-- Settles O13: `Alu.div_eq` gives the guard, `Alu.div_of_ne_zero` the quotient from which the listed laws follow. -/
theorem divIsGuardedUnsignedQuotient : Obligations.DivIsGuardedUnsignedQuotient := by
  refine ⟨fun a b hb => ⟨a / b, Alu.div_of_ne_zero hb, BitVec.toNat_udiv⟩,
    fun a => ⟨?guard, ?one, Alu.div_self⟩, fun _ _ => Alu.div_of_lt, fun b hb => ?zero⟩
  case guard => exact (Alu.div_eq a 0).trans (if_pos rfl)
  case one => exact (Alu.div_of_ne_zero (by decide)).trans (congrArg some BitVec.udiv_one)
  case zero => exact (Alu.div_of_ne_zero hb).trans (congrArg some BitVec.zero_udiv)

/-- Settles O14: the program counter moves by `Alu.incBy` and `Alu.dec` (R15), which are arithmetic modulo 256. -/
theorem incAndDecWrapAndMoveThePc : Obligations.IncAndDecWrapAndMoveThePc :=
  ⟨fun a => ⟨Alu.toNat_inc a, Alu.coe_toNat_dec a⟩, by decide, by decide,
    fun s n => Alu.toNat_incBy s.pc n, State.retreatPc_pc⟩

end Sys2Proof.Machine

/-!
PROOFS. Output and halt (42_output_and_halt.md): an emitted byte is within the quiet frame of PRN, and HALT writes only
the scheduler's status.
-/

namespace Sys2Proof.Machine

/-- An emitted byte leaves the stack pointer, memory, the status and the reports alone (R100). -/
theorem State.quietFrame_emit (s : State) (v : Byte) : s.QuietFrame (s.emit v) :=
  ⟨s.emit_sp v, s.emit_readMem v, ⟨s.emit_run v, s.emit_reason v⟩, s.emit_reports v⟩

/-- Settles O22: `exec_prn` gives the state PRN answers, and `stepOnce_of_byte` that a step at its opcode runs it. -/
theorem prnEmitsTheSelectedRegister : Obligations.PrnEmitsTheSelectedRegister := by
  refine ⟨fun s => ⟨(s.emit s.selected).advancePc 1, exec_prn s, ?_⟩, fun s h => stepOnce_of_byte s .prn h⟩
  have hout : ((s.emit s.selected).advancePc 1).out = s.out ++ [s.readReg s.cur] := s.emit_out s.selected
  have hpc : ((s.emit s.selected).advancePc 1).pc = s.pc + 1 := Alu.incBy_eq 1 s.pc
  exact ⟨hout, hpc, rfl, fun _ => rfl, (s.quietFrame_emit s.selected).advancePc 1⟩

/-- Settles O23: `exec_halt` gives the state HALT answers, and the laws of `State.halt` its two writes and its frame. -/
theorem haltStopsTheScheduler : Obligations.HaltStopsTheScheduler := by
  refine ⟨fun s => ⟨s.halt .halt, exec_halt s, ?_⟩, fun s h => stepOnce_of_byte s .halt h⟩
  have hregs : s.SameRegs (s.halt .halt) := s.halt_readReg .halt
  have hmem : s.SameMem (s.halt .halt) := s.halt_readMem .halt
  have htraces : s.SameTraces (s.halt .halt) := ⟨s.halt_out .halt, s.halt_reports .halt⟩
  exact ⟨s.halt_run .halt, s.halt_reason .halt, s.halt_pc .halt, s.halt_sp .halt, s.halt_cur .halt, hregs, hmem,
    htraces⟩

end Sys2Proof.Machine

/-!
PROOFS. The stack stubs (43_reserved_and_stubs.md): a move of `pc` in either direction, with nothing before it, stays
within the quiet frame.
-/

namespace Sys2Proof.Machine

/-- A state that did not change is within the quiet frame. -/
theorem State.QuietFrame.refl (s : State) : s.QuietFrame s :=
  ⟨rfl, fun _ => rfl, ⟨rfl, rfl⟩, rfl⟩

/-- A decrement of `pc` leaves the stack pointer, memory, the status and the reports alone (R15). -/
theorem State.quietFrame_retreatPc (s : State) : s.QuietFrame s.retreatPc :=
  ⟨s.retreatPc_sp, s.retreatPc_readMem, ⟨s.retreatPc_run, s.retreatPc_reason⟩, s.retreatPc_reports⟩

/-- Settles O24: `exec_push` gives the state PUSH answers, and `stepOnce_of_byte` that a step at its opcode runs it. -/
theorem pushOnlyAdvancesThePc : Obligations.PushOnlyAdvancesThePc := by
  refine ⟨fun s => ⟨s.advancePc 1, exec_push s, ?_⟩, fun s h => stepOnce_of_byte s .push h⟩
  have hpc : (s.advancePc 1).pc = s.pc + 1 := Alu.incBy_eq 1 s.pc
  have hregs : s.SameRegs (s.advancePc 1) := s.advancePc_readReg 1
  exact ⟨hpc, s.advancePc_cur 1, hregs, s.advancePc_out 1, (State.QuietFrame.refl s).advancePc 1⟩

/-- Settles O25: `exec_pop` gives the state POP answers, and `stepOnce_of_byte` that a step at its opcode runs it. -/
theorem popOnlyDecrementsThePc : Obligations.PopOnlyDecrementsThePc := by
  refine ⟨fun s => ⟨s.retreatPc, exec_pop s, ?_⟩, fun s h => stepOnce_of_byte s .pop h⟩
  have hpc : s.retreatPc.pc = s.pc - 1 := Alu.dec_eq s.pc
  have hregs : s.SameRegs s.retreatPc := s.retreatPc_readReg
  exact ⟨hpc, s.retreatPc_cur, hregs, s.retreatPc_out, s.quietFrame_retreatPc⟩

end Sys2Proof.Machine

/-!
PROOFS. The host interface (46_host_interface.md): a poke of two byte-sized numbers is one memory write.
-/

namespace Sys2Proof.Machine

/-- A poke of a stopped machine with both arguments in range answers with the one memory write (R135). -/
theorem poke_of_stopped {s : State} {address value : Nat} (hrun : s.run = false) (ha : address < 256)
    (hv : value < 256) :
    poke address value s = .next (s.writeMem (BitVec.ofNat 8 address) (BitVec.ofNat 8 value)) := by
  have hfits : (fitsByte address && fitsByte value) = true := by simp [fitsByte, ha, hv]
  rw [poke, if_pos hfits, hrun, if_neg Bool.false_ne_true]

/-- Settles O43: `poke_of_stopped` gives the state a poke answers, the read-after-write law of memory its one cell, and
the laws of `State.writeMem` its frame. -/
theorem pokeWritesOneCell : Obligations.PokeWritesOneCell := by
  intro s address value hrun ha hv
  set a : Byte := BitVec.ofNat 8 address
  set v : Byte := BitVec.ofNat 8 value
  have ha_toNat : a.toNat = address := Nat.mod_eq_of_lt ha
  have hv_toNat : v.toNat = value := Nat.mod_eq_of_lt hv
  have hregs : s.SameRegs (s.writeMem a v) := s.writeMem_readReg a v
  have hstatus : s.SameStatus (s.writeMem a v) := ⟨s.writeMem_run a v, s.writeMem_reason a v⟩
  have htraces : s.SameTraces (s.writeMem a v) := ⟨s.writeMem_out a v, s.writeMem_reports a v⟩
  refine ⟨s.writeMem a v, poke_of_stopped hrun ha hv, ?written, fun addr hne => ?other, s.writeMem_pc a v,
    s.writeMem_sp a v, s.writeMem_cur a v, hregs, hstatus, htraces⟩
  case written => rw [State.readMem_writeMem, if_pos rfl, hv_toNat]
  case other =>
    have hcell : a ≠ addr := by rintro rfl; exact hne ha_toNat
    rw [State.readMem_writeMem, if_neg hcell]

end Sys2Proof.Machine

/-!
PROOFS. What one instruction, one step, one tick and one poke can do, each said once: the cases from which the proofs
about traces, the program counter, memory, the status and the invariant are read off (45_step_and_scheduler.md,
60_exceptions.md, 46_host_interface.md).
-/

namespace Sys2Proof.Machine

/-- Memories that are equal read the same. -/
theorem State.readMem_congr {s t : State} (h : t.mem = s.mem) (a : Byte) : t.readMem a = s.readMem a :=
  congrArg (Memory.read · a) h

/-- An instruction that completes without stopping the machine: it moves `pc` by its own step and keeps memory, `sp`,
the status and the report trace. -/
structure State.Completed (s : State) (i : Instr) (t : State) : Prop where
  mem_eq : t.mem = s.mem
  sp_eq : t.sp = s.sp
  run_eq : t.run = s.run
  reason_eq : t.reason = s.reason
  reports_eq : t.reports = s.reports
  pc_eq : t.pc = i.pcAfter s.pc

/-- An instruction halts, raises DivideByZero or completes: there is no fourth way (R101, R152, R131). -/
theorem exec_cases {i : Instr} {s t : State} (h : exec i s = .next t) :
    (i = .halt ∧ t = s.halt .halt) ∨
      (∃ r0 r1, i = .div r0 r1 ∧ s.readReg r1 = 0 ∧ t = s.raise .divideByZero) ∨
      (i ≠ .halt ∧ s.Completed i t) := by
  cases i with
  | halt => cases h; exact .inl ⟨rfl, rfl⟩
  | div r0 r1 =>
    obtain ⟨h0, rfl⟩ | ⟨-, rfl⟩ := exec_div_cases h
    · exact .inr (.inl ⟨r0, r1, rfl, h0, rfl⟩)
    · exact .inr (.inr ⟨nofun, rfl, rfl, rfl, rfl, rfl, Alu.incBy_eq 3 s.pc⟩)
  | dec | pop => cases h; exact .inr (.inr ⟨nofun, rfl, rfl, rfl, rfl, rfl, Alu.dec_eq s.pc⟩)
  | _ => cases h; exact .inr (.inr ⟨nofun, rfl, rfl, rfl, rfl, rfl, Alu.incBy_eq _ s.pc⟩)

/-- Every instruction answers a next state (R120). -/
theorem exec_total (i : Instr) (s : State) : ∃ t, exec i s = .next t := by
  cases i with
  | div r0 r1 => exact ⟨_, exec_div s r0 r1⟩
  | _ => exact ⟨_, rfl⟩

/-- No instruction writes memory (R34). -/
theorem exec_mem {i : Instr} {s t : State} (h : exec i s = .next t) : t.mem = s.mem := by
  obtain ⟨-, rfl⟩ | ⟨-, -, -, -, rfl⟩ | ⟨-, hdone⟩ := exec_cases h
  · rfl
  · rfl
  · exact hdone.mem_eq

/-- The instruction at `pc` is one of the entry it was read for (R55). -/
theorem State.opcode_instrAt (s : State) (op : Opcode) : (s.instrAt op).opcode = op := by
  cases op <;> rfl

/-- When a step raises a condition: at an unknown opcode, or at a DIV whose divisor register holds 0 (R151, R152). -/
def State.Raises (s : State) : Condition → Prop
  | .invalidInstruction => Opcode.ofByte? (s.readMem s.pc) = none
  | .divideByZero => s.readMem s.pc = Opcode.div.byte ∧ s.readReg (s.readMem (s.pc + 2)) = 0

/-- Everything one step can do (R120), each case with its cause in the bytes at `pc`. -/
inductive State.StepsTo (s : State) : State → Prop
  | raises (c : Condition) (h : s.Raises c) : s.StepsTo (s.raise c)
  | halts (h : s.readMem s.pc = Opcode.halt.byte) : s.StepsTo (s.halt .halt)
  | completes (op : Opcode) (t : State) (hop : Opcode.ofByte? (s.readMem s.pc) = some op)
      (hi : s.instrAt op ≠ .halt) (h : s.Completed (s.instrAt op) t) : s.StepsTo t

section
variable {s t : State}

theorem stepOnce_of_ofByte? {op : Opcode} (h : Opcode.ofByte? (s.readMem s.pc) = some op) :
    stepOnce s = exec (s.instrAt op) s := by
  rw [stepOnce_eq, h]

theorem stepOnce_of_raises {c : Condition} (h : s.Raises c) : stepOnce s = .next (s.raise c) := by
  cases c with
  | invalidInstruction =>
    have hnone : Opcode.ofByte? (s.readMem s.pc) = none := h
    rw [stepOnce_eq, hnone]
  | divideByZero =>
    obtain ⟨hbyte, hzero⟩ := h
    rw [stepOnce_of_byte s .div hbyte, State.instrAt, exec_div, if_pos hzero]

theorem stepOnce_cases (h : stepOnce s = .next t) : s.StepsTo t := by
  cases hop : Opcode.ofByte? (s.readMem s.pc) with
  | none =>
    have hraise : s.Raises .invalidInstruction := hop
    rw [stepOnce_of_raises hraise] at h
    cases h
    exact .raises _ hraise
  | some op =>
    have hbyte : op.byte = s.readMem s.pc := Opcode.byte_of_ofByte? hop
    rw [stepOnce_of_ofByte? hop] at h
    obtain ⟨hi, rfl⟩ | ⟨r0, r1, hi, hzero, rfl⟩ | ⟨hi, hdone⟩ := exec_cases h
    · obtain rfl : .halt = op := (congrArg Instr.opcode hi).symm.trans (s.opcode_instrAt op)
      exact .halts hbyte.symm
    · obtain rfl : .div = op := (congrArg Instr.opcode hi).symm.trans (s.opcode_instrAt op)
      cases hi
      exact .raises .divideByZero ⟨hbyte.symm, hzero⟩
    · exact .completes op t hop hi hdone

/-- Every step answers a next state (R120). -/
theorem stepOnce_total (s : State) : ∃ t, stepOnce s = .next t := by
  cases hop : Opcode.ofByte? (s.readMem s.pc) with
  | none => exact ⟨_, stepOnce_of_raises (c := .invalidInstruction) hop⟩
  | some op => rw [stepOnce_of_ofByte? hop]; exact exec_total _ s

/-- A tick is no change of a stopped machine or a step of a running one (R123). -/
theorem step_cases (h : step s = .next t) : (s.run = false ∧ t = s) ∨ (s.run = true ∧ stepOnce s = .next t) := by
  cases hrun : s.run with
  | false => rw [step_of_stopped s hrun] at h; cases h; exact .inl ⟨rfl, rfl⟩
  | true => exact .inr ⟨rfl, step_of_run s hrun ▸ h⟩

/-- No tick writes memory (R34). -/
theorem step_mem (h : step s = .next t) : t.mem = s.mem := by
  obtain ⟨-, rfl⟩ | ⟨-, h⟩ := step_cases h
  · rfl
  · cases stepOnce_cases h with
    | raises c => rfl
    | halts => rfl
    | completes op t hop hi hdone => exact hdone.mem_eq

/-- The range check of a poke (R33). -/
theorem fitsByte_and_iff {m n : Nat} : (fitsByte m && fitsByte n) = true ↔ m < 256 ∧ n < 256 := by
  simp [fitsByte]

/-- The pokes that are answered, and what they answer (R33, R135, R136). -/
theorem poke_cases {address value : Nat} (h : poke address value s = .next t) :
    address < 256 ∧ value < 256 ∧ s.run = false ∧
      t = s.writeMem (BitVec.ofNat 8 address) (BitVec.ofNat 8 value) := by
  unfold poke at h
  split at h
  · rename_i hfits
    obtain ⟨ha, hv⟩ := fitsByte_and_iff.mp hfits
    split at h
    · cases h
    · rename_i hrun
      cases h
      exact ⟨ha, hv, by simpa using hrun, rfl⟩
  · cases h

/-! What `start` and `stop` do (R124, R125). -/

theorem State.start_of_running (h : s.run = true) : s.start = s := if_pos h

theorem State.start_of_stopped (h : s.run = false) : s.start = { s with run := true, reason := .none } := by
  simp [State.start, h]

theorem State.stop_of_running (h : s.run = true) : s.stop = { s with run := false, reason := .externalStop } :=
  if_pos h

theorem State.stop_of_stopped (h : s.run = false) : s.stop = s := by
  simp [State.stop, h]

end

section
variable (s : State)

@[simp] theorem State.start_run : s.start.run = true := by
  cases h : s.run with
  | false => rw [State.start_of_stopped h]
  | true => rw [State.start_of_running h, h]

@[simp] theorem State.start_pc : s.start.pc = s.pc := by unfold State.start; split <;> rfl
@[simp] theorem State.start_mem : s.start.mem = s.mem := by unfold State.start; split <;> rfl
@[simp] theorem State.start_out : s.start.out = s.out := by unfold State.start; split <;> rfl
@[simp] theorem State.start_reports : s.start.reports = s.reports := by unfold State.start; split <;> rfl
@[simp] theorem State.stop_run : s.stop.run = false := by
  cases h : s.run with
  | false => rw [State.stop_of_stopped h, h]
  | true => rw [State.stop_of_running h]

@[simp] theorem State.stop_mem : s.stop.mem = s.mem := by unfold State.stop; split <;> rfl
@[simp] theorem State.stop_out : s.stop.out = s.out := by unfold State.stop; split <;> rfl
@[simp] theorem State.stop_reports : s.stop.reports = s.reports := by unfold State.stop; split <;> rfl

@[simp] theorem State.start_readMem (a : Byte) : s.start.readMem a = s.readMem a :=
  State.readMem_congr s.start_mem a

end

end Sys2Proof.Machine

/-!
PROOFS. The decoder and the encoder (30_encoding.md sections 1 to 5): each undoes the other, and what a step fetches.
-/

namespace Sys2Proof.Machine

/-- The operand bytes of an instruction, whatever follows them, are read back as its operands (R52, R53). -/
theorem decodeOperands_operandBytes (i : Instr) (rest : List Byte) :
    decodeOperands i.opcode (i.operandBytes ++ rest) = .ok (i, rest) := by
  cases i <;> rfl

/-- The decoder takes an instruction from the front of any list that begins with its encoding. -/
theorem decode_encode_append (i : Instr) (rest : List Byte) : decode (encode i ++ rest) = .ok (i, rest) := by
  rw [encode, List.cons_append, decode, Opcode.ofByte?_byte]
  exact decodeOperands_operandBytes i rest

/-- Settles O5: the opcode byte gives back its entry, and the operand bytes the operands. -/
theorem encodedInstructionDecodesToItself : Obligations.EncodedInstructionDecodesToItself :=
  fun i rest _ => decode_encode_append i rest

/-- Operands are read from the front of the list, and nothing else is taken from it (R52, R53). -/
theorem eq_of_decodeOperands {op : Opcode} {bs rest : List Byte} {i : Instr}
    (h : decodeOperands op bs = .ok (i, rest)) : i.opcode = op ∧ bs = i.operandBytes ++ rest := by
  unfold decodeOperands at h
  split at h <;> cases h <;> exact ⟨rfl, rfl⟩

/-- Settles O6: the first byte is the byte of the entry it was looked up as, the rest the operands of that entry. -/
theorem decodedBytesAreTheEncoding : Obligations.DecodedBytesAreTheEncoding := by
  intro bs rest i h
  cases bs with
  | nil => cases h
  | cons b bs =>
    rw [decode] at h
    cases hop : Opcode.ofByte? b with
    | none => rw [hop] at h; cases h
    | some op =>
      rw [hop] at h
      obtain ⟨hopcode, hbs⟩ := eq_of_decodeOperands h
      have hbyte : op.byte = b := Opcode.byte_of_ofByte? hop
      rw [encode, hopcode, hbyte, hbs, List.cons_append]

/-- Settles O7, by running the decoder on each word. -/
theorem sampleWordsDecode : Obligations.SampleWordsDecode := by
  unfold Obligations.SampleWordsDecode
  decide

/-- A byte has no entry exactly where it is no entry's byte (R57). -/
theorem Opcode.ofByte?_eq_none_iff {b : Byte} : Opcode.ofByte? b = none ↔ ∀ op : Opcode, op.byte ≠ b := by
  constructor
  · rintro h op rfl
    rw [Opcode.ofByte?_byte] at h
    cases h
  · intro h
    cases hop : Opcode.ofByte? b with
    | none => rfl
    | some op => exact absurd (Opcode.byte_of_ofByte? hop) (h op)

/-- The addresses a step reads, as sums modulo 256 (R43). -/
theorem State.fetchAddrs_eq (s : State) :
    s.fetchAddrs = (List.range (bytesRead (s.readMem s.pc))).map (fun k => s.pc + BitVec.ofNat 8 k) := by
  simp only [State.fetchAddrs, Alu.incBy_eq]

/-- A step reads as many bytes as the format of the entry at `pc` has (R54, R62). -/
theorem bytesRead_byte (op : Opcode) : bytesRead op.byte = op.length := by
  rw [bytesRead, Opcode.ofByte?_byte]

/-- Settles O8: an entry's byte gives the entry's length, an unknown opcode is none of the bytes with operands. -/
theorem fetchReadsExactlyTheFormat : Obligations.FetchReadsExactlyTheFormat := by
  intro s
  rw [State.fetchAddrs_eq]
  cases hop : Opcode.ofByte? (s.readMem s.pc) with
  | none =>
    have hne : ∀ op : Opcode, s.readMem s.pc ≠ op.byte := fun op => (Opcode.ofByte?_eq_none_iff.mp hop op).symm
    have hone : bytesRead (s.readMem s.pc) = 1 := by rw [bytesRead, hop]
    have htwo : ¬(s.readMem s.pc = 0x02 ∨ s.readMem s.pc = 0x04) := not_or.mpr ⟨hne .set, hne .save⟩
    have hthree : ¬(s.readMem s.pc = 0x05 ∨ s.readMem s.pc = 0x09 ∨ s.readMem s.pc = 0x0D ∨ s.readMem s.pc = 0x0F) :=
      not_or.mpr ⟨hne .mul, not_or.mpr ⟨hne .div, not_or.mpr ⟨hne .sub, hne .add⟩⟩⟩
    rw [hone, if_neg htwo, if_neg hthree, List.range_one, List.map_singleton, BitVec.add_zero]
  | some op =>
    rw [← Opcode.byte_of_ofByte? hop, bytesRead_byte]
    cases op <;> simp [Opcode.length, Opcode.format, EncFormat.operandCount, Opcode.byte, List.range_succ]

/-- As many bytes as an entry has operands make an instruction of that entry: no operand value is illegal (R56). -/
theorem Opcode.exists_instr {op : Opcode} {bs : List Byte} (h : bs.length = op.format.operandCount) :
    ∃ i : Instr, i.opcode = op ∧ i.operandBytes = bs := by
  have hdecode : ∃ i, decodeOperands op bs = .ok (i, []) := by
    cases op with
    | halt | init | prn | inc | dec | push | pop =>
      obtain rfl := List.length_eq_zero_iff.mp h
      exact ⟨_, rfl⟩
    | set | save =>
      obtain ⟨r, rfl⟩ := List.length_eq_one_iff.mp h
      exact ⟨_, rfl⟩
    | mul | div | sub | add =>
      obtain ⟨r0, r1, rfl⟩ := List.length_eq_two.mp h
      exact ⟨_, rfl⟩
  obtain ⟨i, hi⟩ := hdecode
  obtain ⟨hop, hbs⟩ := eq_of_decodeOperands hi
  exact ⟨i, hop, by rw [hbs, List.append_nil]⟩

/-- Numbers that fit a byte keep their value in it (R33). -/
theorem map_toNat_map_ofNat {ns : List Nat} (h : ∀ n ∈ ns, n < 256) :
    (ns.map (BitVec.ofNat 8)).map BitVec.toNat = ns := by
  rw [List.map_map]
  exact (List.map_congr_left fun n hn => Nat.mod_eq_of_lt (h n hn)).trans (List.map_id ns)

/-- Settles O9: the assembled line is the encoding of the instruction with those operands. -/
theorem assembledLineDecodes : Obligations.AssembledLineDecodes := by
  intro op operands rest hwf
  obtain ⟨hlen, hfits⟩ : operands.length = op.format.operandCount ∧ ∀ n ∈ operands, n < 256 := by
    simpa [SourceLine.wellFormed, fitsByte] using hwf
  obtain ⟨i, hop, hbytes⟩ := Opcode.exists_instr (op := op) (bs := operands.map (BitVec.ofNat 8))
    ((List.length_map _).trans hlen)
  have hassemble : (SourceLine.instr op operands).assemble = some (encode i) := by
    rw [SourceLine.assemble, if_pos hwf, encode, hop, hbytes]
  exact ⟨encode i, i, hassemble, hop, hbytes ▸ map_toNat_map_ofNat hfits, decode_encode_append i rest⟩

/-- The entry's operands read from the two bytes after `pc` make the instruction at `pc` (R56). -/
theorem eq_instrAt_of_decodeOperands {s : State} {op : Opcode} {i : Instr} {rest : List Byte}
    (h : decodeOperands op [s.readMem (s.pc + 1), s.readMem (s.pc + 2)] = .ok (i, rest)) : i = s.instrAt op := by
  cases op <;> cases h <;> rfl

/-- A step runs what the decoder reads from the three bytes at `pc` (R120, R50). -/
theorem stepOnce_of_decode {s : State} {i : Instr} {rest : List Byte}
    (h : decode [s.readMem s.pc, s.readMem (s.pc + 1), s.readMem (s.pc + 2)] = .ok (i, rest)) :
    stepOnce s = exec i s := by
  rw [decode] at h
  cases hop : Opcode.ofByte? (s.readMem s.pc) with
  | none => rw [hop] at h; cases h
  | some op =>
    rw [hop] at h
    rw [stepOnce_of_ofByte? hop, eq_instrAt_of_decodeOperands h]

/-- Three bytes placed at `pc` read back at `pc`, `pc + 1` and `pc + 2` (R43). -/
theorem State.readMem_placeBytes (s : State) (a b₀ b₁ b₂ : Byte) :
    (s.placeBytes a [b₀, b₁, b₂]).readMem a = b₀ ∧ (s.placeBytes a [b₀, b₁, b₂]).readMem (a + 1) = b₁ ∧
      (s.placeBytes a [b₀, b₁, b₂]).readMem (a + 2) = b₂ := by
  have h01 : a + 1 ≠ a := by bv_omega
  have h02 : a + 2 ≠ a := by bv_omega
  have h12 : a + 2 ≠ a + 1 := by bv_omega
  have htwo : a + 1 + 1 = a + 2 := by bv_omega
  simp only [State.placeBytes, Alu.inc_eq, htwo, State.readMem_writeMem, h01, h02, h12, if_true, if_false, and_self]

/-- Placing bytes writes memory only. -/
theorem State.placeBytes_pc (s : State) (a : Byte) (bs : List Byte) : (s.placeBytes a bs).pc = s.pc := by
  induction bs generalizing s a with
  | nil => rfl
  | cons b bs ih => rw [State.placeBytes, ih, State.writeMem_pc]

/-- Settles O54: the placed bytes are the bytes at `pc`, and a step runs what the decoder reads from them. -/
theorem placedWordRunsNext : Obligations.PlacedWordRunsNext := by
  intro s nbits w i hword
  have hdecode : ∃ rest, decode (tableWordBytes nbits w) = .ok (i, rest) := by
    rw [decodeTableWord] at hword
    split at hword <;> cases hword
    exact ⟨_, ‹_›⟩
  obtain ⟨rest, hrest⟩ := hdecode
  have hrun : (s.withFetchWord nbits w).run = true := State.start_run _
  have hpc : (s.withFetchWord nbits w).pc = s.pc := (State.start_pc _).trans (s.placeBytes_pc _ _)
  obtain ⟨h0, h1, h2⟩ := s.readMem_placeBytes s.pc (BitVec.ofNat 8 (w % 2 ^ nbits))
    (BitVec.ofNat 8 (w % 2 ^ nbits / 256)) (BitVec.ofNat 8 (w % 2 ^ nbits / 65536))
  rw [step_of_run _ hrun]
  refine stepOnce_of_decode (rest := rest) ?_
  rw [hpc, State.withFetchWord, State.start_readMem, State.start_readMem, State.start_readMem, tableWordBytes, h0, h1,
    h2]
  exact hrest

end Sys2Proof.Machine

/-!
PROOFS. Memory and pokes (20_memory.md sections 1, 2 and 6, 46_host_interface.md section 1): a canonical list is decided
by what it reads as, so that laws of memory reads become equations of memories and of whole states.
-/

namespace Sys2Proof.Machine

theorem Memory.wf_cons_iff {m : Memory} {k : Nat} {v : Byte} :
    Memory.wf ((k, v) :: m) ↔ (∀ c ∈ m, k < c.1) ∧ k < 256 ∧ v ≠ Memory.unlisted ∧ Memory.wf m := by
  simp only [Memory.wf, List.pairwise_cons, List.forall_mem_cons]
  tauto

/-- Two canonical lists differ at the first listed address where the other list begins later. -/
theorem Memory.not_agree_of_lt {m n : Memory} {k : Nat} {v : Byte} (hm : Memory.wf ((k, v) :: m))
    (hn : ∀ c ∈ n, k < c.1) : ¬ ∀ a < 256, Memory.lookup ((k, v) :: m) a = n.lookup a := by
  intro hagree
  obtain ⟨-, hk, hv, -⟩ := Memory.wf_cons_iff.mp hm
  have hlisted : Memory.lookup ((k, v) :: m) k = v := if_pos rfl
  exact hv (hlisted.symm.trans ((hagree k hk).trans (Memory.lookup_of_lt hn)))

/-- In a canonical list that begins at `l`, every listed address is above anything below `l`. -/
theorem Memory.lt_of_mem_of_lt {n : Memory} {k l : Nat} {w : Byte} (hn : ∀ c ∈ n, l < c.1) (hkl : k < l) :
    ∀ c ∈ ((l, w) :: n : Memory), k < c.1 :=
  List.forall_mem_cons.mpr ⟨hkl, fun c hc => hkl.trans (hn c hc)⟩

/-- Canonical lists that agree at every address are equal, by induction on both: the first entries must agree, and the
rests then agree because neither lists the first address. -/
theorem Memory.eq_of_lookup {m n : Memory} (hm : Memory.wf m) (hn : Memory.wf n)
    (hagree : ∀ a < 256, m.lookup a = n.lookup a) : m = n := by
  induction m generalizing n with
  | nil =>
    cases n with
    | nil => rfl
    | cons d n => exact absurd (fun a ha => (hagree a ha).symm) (Memory.not_agree_of_lt hn nofun)
  | cons c m ih =>
    cases n with
    | nil => exact absurd hagree (Memory.not_agree_of_lt hm nofun)
    | cons d n =>
      obtain ⟨k, v⟩ := c
      obtain ⟨l, w⟩ := d
      obtain ⟨hkm, hk, -, hmwf⟩ := Memory.wf_cons_iff.mp hm
      obtain ⟨hln, -, -, hnwf⟩ := Memory.wf_cons_iff.mp hn
      obtain hkl | rfl | hlk := lt_trichotomy k l
      · exact absurd hagree (Memory.not_agree_of_lt hm (Memory.lt_of_mem_of_lt hln hkl))
      · have hvw : v = w := by simpa [Memory.lookup] using hagree k hk
        have hrest : ∀ a < 256, Memory.lookup m a = Memory.lookup n a := by
          intro a ha
          by_cases hka : k = a
          · subst hka
            rw [Memory.lookup_of_lt hkm, Memory.lookup_of_lt hln]
          · simpa [Memory.lookup, hka] using hagree a ha
        rw [hvw, ih hmwf hnwf hrest]
      · exact absurd (fun a ha => (hagree a ha).symm) (Memory.not_agree_of_lt hn (Memory.lt_of_mem_of_lt hkm hlk))

/-- Settles O4: every address below 256 is the number of a byte. -/
theorem canonicalMemoriesAgreeingAreEqual : Obligations.CanonicalMemoriesAgreeingAreEqual := by
  intro m n hm hn hagree
  refine Memory.eq_of_lookup hm hn fun a ha => ?_
  have htoNat : (BitVec.ofNat 8 a).toNat = a := Nat.mod_eq_of_lt ha
  have hread := hagree (BitVec.ofNat 8 a)
  rwa [Memory.read, Memory.read, htoNat] at hread

section
variable {m : Memory} (hm : Memory.wf m)
include hm

/-- Of two writes to one address the later stands alone (R32). -/
theorem Memory.write_write_same (a v w : Byte) : (m.write a v).write a w = m.write a w := by
  refine canonicalMemoriesAgreeingAreEqual _ _ (Memory.wf_write (Memory.wf_write hm a v) a w) (Memory.wf_write hm a w)
    fun addr => ?_
  simp only [Memory.read_write]
  split <;> rfl

/-- Writes to different addresses commute (R32). -/
theorem Memory.write_comm {a b : Byte} (hab : a ≠ b) (v w : Byte) :
    (m.write a v).write b w = (m.write b w).write a v := by
  refine canonicalMemoriesAgreeingAreEqual _ _ (Memory.wf_write (Memory.wf_write hm a v) b w)
    (Memory.wf_write (Memory.wf_write hm b w) a v) fun addr => ?_
  simp only [Memory.read_write]
  by_cases hb : b = addr
  · subst hb
    rw [if_pos rfl, if_neg hab, if_pos rfl]
  · rw [if_neg hb, if_neg hb]

end

theorem State.writeMem_writeMem_same {s : State} (hm : Memory.wf s.mem) (a v w : Byte) :
    (s.writeMem a v).writeMem a w = s.writeMem a w :=
  congrArg (fun m => { s with mem := m }) (Memory.write_write_same hm a v w)

theorem State.writeMem_comm {s : State} (hm : Memory.wf s.mem) {a b : Byte} (hab : a ≠ b) (v w : Byte) :
    (s.writeMem a v).writeMem b w = (s.writeMem b w).writeMem a v :=
  congrArg (fun m => { s with mem := m }) (Memory.write_comm hm hab v w)

/-- Settles O45: an answered poke is one memory write, and the laws of two memory writes are equations of states. -/
theorem pokesOverwriteAndCommute : Obligations.PokesOverwriteAndCommute := by
  refine ⟨fun s a v w hm hrun ha hv hw => ?same, fun s a b v w hm hrun ha hb hv hw hab => ?comm,
    fun s a v w hm => State.writeMem_writeMem_same hm a v w, fun s a b v w hm hab => State.writeMem_comm hm hab v w⟩
  case same =>
    have hrun' : (s.writeMem (BitVec.ofNat 8 a) (BitVec.ofNat 8 v)).run = false := hrun
    refine ⟨_, poke_of_stopped hrun ha hv, ?_, ?_⟩
    · rw [poke_of_stopped hrun' ha hv, State.writeMem_writeMem_same hm]
    · rw [poke_of_stopped hrun' ha hw, State.writeMem_writeMem_same hm, poke_of_stopped hrun ha hw]
  case comm =>
    have hne : BitVec.ofNat 8 a ≠ BitVec.ofNat 8 b := by
      intro h
      have htoNat : a % 256 = b % 256 := congrArg BitVec.toNat h
      rw [Nat.mod_eq_of_lt ha, Nat.mod_eq_of_lt hb] at htoNat
      exact hab htoNat
    have hrun_a : (s.writeMem (BitVec.ofNat 8 a) (BitVec.ofNat 8 v)).run = false := hrun
    have hrun_b : (s.writeMem (BitVec.ofNat 8 b) (BitVec.ofNat 8 w)).run = false := hrun
    refine ⟨_, _, _, poke_of_stopped hrun ha hv, poke_of_stopped hrun hb hw, poke_of_stopped hrun_a hb hw, ?_⟩
    rw [poke_of_stopped hrun_b ha hv, State.writeMem_comm hm hne]

/-- Settles O37, by cases on the transaction: a poke is one memory write, a reset empties memory, and no other
transaction writes it. -/
theorem onlyTheHostWritesMemory : Obligations.OnlyTheHostWritesMemory := by
  intro e s t h
  cases e with
  | reset => cases h; exact State.reset_readMem
  | poke address value =>
    obtain ⟨-, -, -, rfl⟩ := poke_cases h
    refine ⟨?_, fun addr hne => ?_⟩
    · rw [State.readMem_writeMem, if_pos rfl]
    · rw [State.readMem_writeMem, if_neg hne.symm]
  | start => cases h; exact State.readMem_congr s.start_mem
  | stop => cases h; exact State.readMem_congr s.stop_mem
  | tick => exact State.readMem_congr (step_mem h)

/-- Settles O44, by the two tests of a poke: the range first, then the run flag. -/
theorem pokesTurnedAway : Obligations.PokesTurnedAway := by
  refine ⟨fun s address value hout => ?_, fun s address value ha hv hrun => ?_⟩
  · have hnot : ¬(address < 256 ∧ value < 256) := by omega
    rw [poke, if_neg (mt fitsByte_and_iff.mp hnot)]
  · rw [poke, if_pos (fitsByte_and_iff.mpr ⟨ha, hv⟩), if_pos hrun]

/-- Settles O46: the poke and the start leave `pc`, and every fetched byte reads as the poke left it. -/
theorem pokedByteIsFetchedNext : Obligations.PokedByteIsFetchedNext := by
  intro s t a v h
  obtain ⟨-, -, -, ht⟩ := poke_cases h
  rw [BitVec.ofNat_toNat, BitVec.ofNat_toNat, BitVec.setWidth_eq, BitVec.setWidth_eq] at ht
  subst ht
  have hread : ∀ addr : Byte, (s.writeMem a v).start.readMem addr = if addr = a then v else s.readMem addr := by
    intro addr
    rw [State.start_readMem, State.readMem_writeMem]
    exact if_congr eq_comm rfl rfl
  have hpc : (s.writeMem a v).start.pc = s.pc := State.start_pc _
  refine ⟨step_of_run _ (State.start_run _), ?_, List.map_congr_left fun addr _ => hread addr⟩
  rw [State.fetchAddrs_eq, hpc, hread]

end Sys2Proof.Machine

/-!
PROOFS. The instructions that write `cur` or `x[cur]`, and the reserved entries (40_selector_and_move.md,
41_arithmetic.md part 2, 43_reserved_and_stubs.md). SAVE, MUL, SUB, ADD and a DIV that completes write the selected
register and advance `pc`: `State.writeSelected_advancePc` says once what that does.
-/

namespace Sys2Proof.Machine

/-- A write of the selected register leaves the stack pointer, memory, the status and the reports alone (R20). -/
theorem State.quietFrame_writeSelected (s : State) (v : Byte) : s.QuietFrame (s.writeSelected v) :=
  ⟨s.writeSelected_sp v, s.writeSelected_readMem v, ⟨s.writeSelected_run v, s.writeSelected_reason v⟩,
    s.writeSelected_reports v⟩

/-- A write of the selected register writes no other (R12, R20). -/
theorem State.sameRegsBut_writeSelected (s : State) (v : Byte) : s.SameRegsBut s.cur (s.writeSelected v) :=
  fun j hj => (s.readReg_writeSelected v j).trans (if_neg hj.symm)

/-- A write of the selected register and an advance of `pc`: the result and the whole frame. -/
theorem State.writeSelected_advancePc (s : State) (v : Byte) (n : Nat) :
    ((s.writeSelected v).advancePc n).readReg s.cur = v ∧
      s.SameRegsBut s.cur ((s.writeSelected v).advancePc n) ∧ ((s.writeSelected v).advancePc n).cur = s.cur ∧
      ((s.writeSelected v).advancePc n).pc = s.pc + BitVec.ofNat 8 n ∧
      ((s.writeSelected v).advancePc n).out = s.out ∧ s.QuietFrame ((s.writeSelected v).advancePc n) :=
  ⟨(s.readReg_writeSelected v s.cur).trans (if_pos rfl), s.sameRegsBut_writeSelected v, rfl, Alu.incBy_eq n s.pc, rfl,
    (s.quietFrame_writeSelected v).advancePc n⟩

/-- Settles O16: `exec_set` gives the state SET answers, and `stepOnce_of_byte` that a step at its opcode runs it. -/
theorem setSelectsItsOperand : Obligations.SetSelectsItsOperand := by
  refine ⟨fun s r => ⟨(s.setCur r).advancePc 2, exec_set s r, ?_⟩, fun s h => stepOnce_of_byte s .set h⟩
  have hpc : ((s.setCur r).advancePc 2).pc = s.pc + 2 := Alu.incBy_eq 2 s.pc
  exact ⟨rfl, hpc, s.setCur_readReg r, rfl, (s.quietFrame_setCur r).advancePc 2⟩

/-- Settles O17: SAVE writes its immediate into the selected register and advances `pc` by 2. -/
theorem saveWritesTheSelectedRegister : Obligations.SaveWritesTheSelectedRegister :=
  ⟨fun s imm => ⟨_, exec_save s imm, s.writeSelected_advancePc imm 2⟩, fun s h => stepOnce_of_byte s .save h⟩

/-- Settles O18: what MUL writes is the product of the registers as bytes, whose number is the product modulo 256. -/
theorem mulWritesTheProduct : Obligations.MulWritesTheProduct := by
  refine ⟨fun s r0 r1 => ?_, fun s h => stepOnce_of_byte s .mul h⟩
  obtain ⟨hreg, hframe⟩ := s.writeSelected_advancePc (s.readReg r0 * s.readReg r1) 3
  exact ⟨_, exec_mul s r0 r1, (congrArg BitVec.toNat hreg).trans (BitVec.toNat_mul _ _), hframe⟩

/-- Settles O19: what SUB writes is left minus right as bytes, whose number is the difference modulo 256. -/
theorem subWritesLeftMinusRight : Obligations.SubWritesLeftMinusRight := by
  refine ⟨fun s r0 r1 => ?_, fun s h => stepOnce_of_byte s .sub h⟩
  obtain ⟨hreg, hframe⟩ := s.writeSelected_advancePc (s.readReg r0 - s.readReg r1) 3
  refine ⟨_, exec_sub s r0 r1, ?_, hframe⟩
  rw [hreg, ← Alu.sub_eq]
  exact Alu.coe_toNat_sub _ _

/-- Settles O20: what ADD writes is the sum of the two registers as bytes, whose number is the sum modulo 256. -/
theorem addWritesTheSum : Obligations.AddWritesTheSum := by
  refine ⟨fun s r0 r1 => ?_, fun s h => stepOnce_of_byte s .add h⟩
  obtain ⟨hreg, hframe⟩ := s.writeSelected_advancePc (s.readReg r0 + s.readReg r1) 3
  exact ⟨_, exec_add s r0 r1, (congrArg BitVec.toNat hreg).trans (BitVec.toNat_add _ _), hframe⟩

/-- Raising a condition leaves `pc`, `sp`, `cur`, registers, memory and output alone (R153). -/
theorem State.fatalFrame_raise (s : State) (c : Condition) : s.FatalFrame (s.raise c) :=
  ⟨rfl, rfl, rfl, s.raise_readReg c, s.raise_readMem c, rfl⟩

/-- Settles O21: the two cases of `exec_div`, a write of the quotient or the DivideByZero condition. -/
theorem divWritesTheQuotientOrStops : Obligations.DivWritesTheQuotientOrStops := by
  refine ⟨fun s r0 r1 h => ?quotient, fun s r0 r1 h => ?zero, fun s h => stepOnce_of_byte s .div h⟩
  case quotient =>
    obtain ⟨hreg, hframe⟩ := s.writeSelected_advancePc (s.readReg r0 / s.readReg r1) 3
    refine ⟨_, (exec_div s r0 r1).trans (congrArg _ (if_neg h)), ?_, hframe⟩
    rw [hreg, BitVec.toNat_udiv]
  case zero =>
    exact ⟨_, (exec_div s r0 r1).trans (congrArg _ (if_pos h)), rfl, rfl, ⟨_, rfl⟩, s.fatalFrame_raise _⟩

/-- Settles O26: INC is an advance of `pc` by 1 and DEC a decrement, and a step at their opcodes runs them. -/
theorem reservedEntriesOnlyStepThePc : Obligations.ReservedEntriesOnlyStepThePc := by
  refine ⟨fun s => ⟨s.advancePc 1, exec_inc s, ?inc⟩, fun s => ⟨s.retreatPc, exec_dec s, ?dec⟩,
    fun s h => stepOnce_of_byte s .inc h, fun s h => stepOnce_of_byte s .dec h⟩
  case inc =>
    have hpc : (s.advancePc 1).pc = s.pc + 1 := Alu.incBy_eq 1 s.pc
    exact ⟨hpc, rfl, s.advancePc_readReg 1, rfl, (State.QuietFrame.refl s).advancePc 1⟩
  case dec =>
    have hpc : s.retreatPc.pc = s.pc - 1 := Alu.dec_eq s.pc
    exact ⟨hpc, rfl, s.retreatPc_readReg, rfl, s.quietFrame_retreatPc⟩

/-- Settles O27: `invalid` is the InvalidInstruction condition, `genuine` the refusal. -/
theorem otherSwitchValuesRaiseOrRefuse : Obligations.OtherSwitchValuesRaiseOrRefuse :=
  ⟨fun _ s => ⟨s.raise .invalidInstruction, rfl, s.raise_reports _, rfl, rfl, s.fatalFrame_raise _⟩, fun _ _ => rfl⟩

/-- Settles O36, by cases on the instruction: five write the selected register, the others none. -/
theorem onlyTheSelectedRegisterIsWritten : Obligations.OnlyTheSelectedRegisterIsWritten := by
  intro i s t h
  cases i with
  | div r0 r1 =>
    obtain ⟨-, rfl⟩ | ⟨-, rfl⟩ := exec_div_cases h
    · exact fun j _ => s.raise_readReg _ j
    · exact s.sameRegsBut_writeSelected _
  | save | mul | sub | add => cases h; exact s.sameRegsBut_writeSelected _
  | _ => cases h; exact fun _ => rfl

end Sys2Proof.Machine

/-!
PROOFS. The fatal conditions (60_exceptions.md sections 1 and 2, 30_encoding.md section 4): when a step raises one, and
what else it then does.
-/

namespace Sys2Proof.Machine

/-- Settles O28, by the laws of `State.raise`. -/
theorem raiseReportsAndStops : Obligations.RaiseReportsAndStops :=
  fun s c => ⟨s.raise_reports c, s.raise_run c, s.raise_reason c, s.fatalFrame_raise c, rfl, rfl⟩

/-- The thirteen opcode bytes (R55). -/
theorem Opcode.mem_bytes_iff {b : Byte} : b ∈ Opcode.all.map Opcode.byte ↔ ∃ op : Opcode, op.byte = b := by
  have hall : ∀ op : Opcode, op ∈ Opcode.all := fun op => by cases op <;> decide
  simp [hall]

/-- No instruction raises InvalidInstruction (R57): the only report an instruction makes is DIV's. -/
theorem exec_new_reports {i : Instr} {s t : State} (h : exec i s = .next t) :
    ∀ r ∈ t.reports.drop s.reports.length, r.kind ≠ .invalidInstruction := by
  have none_new : t.reports = s.reports → ∀ r ∈ t.reports.drop s.reports.length, r.kind ≠ .invalidInstruction := by
    intro heq r hr
    rw [heq, List.drop_length] at hr
    cases hr
  obtain ⟨-, rfl⟩ | ⟨-, -, -, -, rfl⟩ | ⟨-, hdone⟩ := exec_cases h
  · exact none_new (s.halt_reports .halt)
  · simp
  · exact none_new hdone.reports_eq

/-- Settles O29: an opcode byte is an entry's byte, and only a byte that is no entry's raises InvalidInstruction. -/
theorem unknownOpcodeRaisesInvalidInstruction : Obligations.UnknownOpcodeRaisesInvalidInstruction := by
  refine ⟨fun s h => ?unknown, fun s h => ?known, by decide +kernel⟩
  case unknown =>
    have hraise : s.Raises .invalidInstruction :=
      Opcode.ofByte?_eq_none_iff.mpr fun op hop => h (Opcode.mem_bytes_iff.mpr ⟨op, hop⟩)
    exact ⟨stepOnce_of_raises hraise, s.raise_pc _⟩
  case known =>
    obtain ⟨op, hop⟩ := Opcode.mem_bytes_iff.mp h
    obtain ⟨t, ht⟩ := exec_total (s.instrAt op) s
    have hdecode : decode s.fetch = .ok (s.instrAt op, []) := by
      rw [decode_fetch, ← hop, Opcode.ofByte?_byte]
    exact ⟨s.instrAt op, t, hdecode, stepOnce_of_byte s op hop.symm, ht, exec_new_reports ht⟩

/-- Settles O30: a DIV with a zero divisor raises DivideByZero, whose report holds the byte at `pc`. -/
theorem zeroDivisorRaisesDivideByZero : Obligations.ZeroDivisorRaisesDivideByZero := by
  intro s hbyte hzero
  have hraise : s.Raises .divideByZero := ⟨hbyte, hzero⟩
  exact ⟨s.raise .divideByZero, stepOnce_of_raises hraise, rfl, rfl, rfl, hbyte ▸ s.raise_reports _,
    s.fatalFrame_raise _⟩

/-- Settles O31: of the cases of a step only a raised condition adds to the reports. -/
theorem reportingStepChangesOnlyStatus : Obligations.ReportingStepChangesOnlyStatus := by
  intro s t h hreports
  cases stepOnce_cases h with
  | raises c => exact ⟨s.fatalFrame_raise c, rfl, c, rfl, rfl⟩
  | halts => exact absurd (s.halt_reports .halt) hreports
  | completes op _ hop hi hdone => exact absurd hdone.reports_eq hreports

end Sys2Proof.Machine

/-!
PROOFS. The step and the traces (45_step_and_scheduler.md section 1, 10_state.md section 7): how `pc` moves, what is
put out and reported, and that neither trace loses a record.
-/

namespace Sys2Proof.Machine

/-- Settles O32, by the definitions of the tick and of the step. -/
theorem tickRunsTheDecodedInstruction : Obligations.TickRunsTheDecodedInstruction := by
  refine ⟨fun s => rfl, fun s i rest hrun _ hdecode => ?_, fun s e hrun hdecode => ?_⟩
  · rw [step_of_run s hrun, stepOnce, hdecode]
  · rw [step_of_run s hrun, stepOnce, hdecode]

/-- Settles O38: HALT and a completed instruction report nothing and have moved `pc` by their step; a raised condition
reports and leaves `pc`. -/
theorem programCounterMovesByFixedSteps : Obligations.ProgramCounterMovesByFixedSteps := by
  intro i s t h
  obtain ⟨rfl, rfl⟩ | ⟨-, -, -, -, rfl⟩ | ⟨-, hdone⟩ := exec_cases h
  · exact (if_pos (s.halt_reports .halt)).mpr (s.halt_pc .halt)
  · have hnew : (s.raise .divideByZero).reports ≠ s.reports := by simp
    exact (if_neg hnew).mpr (s.raise_pc _)
  · rw [if_pos hdone.reports_eq]
    exact hdone.pc_eq

/-- Settles O39, by cases on the instruction: only the update of PRN has an `emit`. -/
theorem onlyPrnMakesOutput : Obligations.OnlyPrnMakesOutput := by
  intro i s t h
  cases i with
  | div r0 r1 => obtain ⟨-, rfl⟩ | ⟨-, rfl⟩ := exec_div_cases h <;> rfl
  | _ => cases h; rfl

/-- One step adds at most one byte of output and at most one report (R120). -/
theorem stepOnce_traces {s t : State} (h : stepOnce s = .next t) :
    (t.out = s.out ∨ ∃ v, t.out = s.out ++ [v]) ∧ (t.reports = s.reports ∨ ∃ r, t.reports = s.reports ++ [r]) := by
  constructor
  · cases hop : Opcode.ofByte? (s.readMem s.pc) with
    | none =>
      rw [stepOnce_of_raises (c := .invalidInstruction) hop] at h
      cases h
      exact .inl rfl
    | some op =>
      rw [stepOnce_of_ofByte? hop] at h
      have hout := onlyPrnMakesOutput _ s t h
      split at hout
      · exact .inr ⟨_, hout⟩
      · exact .inl hout
  · cases stepOnce_cases h with
    | raises c => exact .inr ⟨_, rfl⟩
    | halts => exact .inl rfl
    | completes op _ hop hi hdone => exact .inl hdone.reports_eq

/-- Settles O33: every step answers, and adds at most one record to each trace. -/
theorem everyStepAnswersOneNextState : Obligations.EveryStepAnswersOneNextState := by
  intro s
  obtain ⟨t, ht⟩ := stepOnce_total s
  exact ⟨t, ht, stepOnce_traces ht⟩

/-- A list that is unchanged or one longer begins with what it was. -/
theorem isPrefix_of_eq_or_append {α : Type} {l l' : List α} (h : l' = l ∨ ∃ x, l' = l ++ [x]) : l <+: l' := by
  obtain rfl | ⟨x, rfl⟩ := h
  · exact ⟨[], List.append_nil _⟩
  · exact ⟨[x], rfl⟩

/-- A tick takes nothing from a trace (R23). -/
theorem step_traces {s t : State} (h : step s = .next t) : s.out <+: t.out ∧ s.reports <+: t.reports := by
  obtain ⟨-, rfl⟩ | ⟨-, h⟩ := step_cases h
  · exact ⟨isPrefix_of_eq_or_append (.inl rfl), isPrefix_of_eq_or_append (.inl rfl)⟩
  · obtain ⟨hout, hreports⟩ := stepOnce_traces h
    exact ⟨isPrefix_of_eq_or_append hout, isPrefix_of_eq_or_append hreports⟩

/-- Settles O40: pokes, `start` and `stop` leave both traces, and a tick takes nothing from them. -/
theorem tracesOnlyGrow : Obligations.TracesOnlyGrow := by
  intro e s t hne h
  have of_eq : t.out = s.out → t.reports = s.reports → s.out <+: t.out ∧ s.reports <+: t.reports := fun hout hreports =>
    ⟨isPrefix_of_eq_or_append (.inl hout), isPrefix_of_eq_or_append (.inl hreports)⟩
  cases e with
  | reset => exact absurd rfl hne
  | poke address value =>
    obtain ⟨-, -, -, rfl⟩ := poke_cases h
    exact of_eq (s.writeMem_out _ _) (s.writeMem_reports _ _)
  | start => cases h; exact of_eq s.start_out s.start_reports
  | stop => cases h; exact of_eq s.stop_out s.stop_reports
  | tick => exact step_traces h

end Sys2Proof.Machine

/-!
PROOFS. The status and the host's view of it (45_step_and_scheduler.md section 2, 46_host_interface.md section 1,
10_state.md section 10).
-/

namespace Sys2Proof.Machine

/-- Settles O1, by the reset values. -/
theorem resetLeavesTheSpecifiedState : Obligations.ResetLeavesTheSpecifiedState :=
  ⟨State.reset_readReg, State.reset_readMem, rfl, rfl, rfl, rfl, rfl, rfl, rfl⟩

/-- Settles O42: each of `start` and `stop` writes the status where it has an effect and is no change otherwise. -/
theorem startAndStopWriteTheStatus : Obligations.StartAndStopWriteTheStatus := by
  refine ⟨fun s h => ?start, fun s h => ?stop, fun s => ⟨State.start_of_running s.start_run, ?again⟩,
    fun s h => State.start_of_running h, fun s h => State.stop_of_stopped h, fun s h hreason => ?back⟩
  case start =>
    rw [State.start_of_stopped h]
    exact ⟨rfl, rfl, rfl, rfl, rfl, fun _ => rfl, fun _ => rfl, rfl, rfl⟩
  case stop =>
    rw [State.stop_of_running h]
    exact ⟨rfl, rfl, rfl, rfl, rfl, fun _ => rfl, fun _ => rfl, rfl, rfl⟩
  case again => exact State.stop_of_stopped s.stop_run
  case back =>
    rw [State.stop_of_running h, State.start_of_stopped rfl, ← h, ← hreason]

/-- Settles O52: memory is 0 at reset, so the first step is HALT; without a start a step is no change. -/
theorem unloadedMachineHaltsAtOnce : Obligations.UnloadedMachineHaltsAtOnce := by
  refine ⟨⟨State.reset.start.halt .halt, ?_, rfl, rfl, rfl, rfl, rfl⟩, step_of_stopped _ rfl⟩
  have hbyte : State.reset.start.readMem State.reset.start.pc = Opcode.halt.byte := rfl
  rw [step_of_run _ State.reset.start_run, stepOnce_of_byte _ .halt hbyte]
  exact exec_halt _

/-- Settles O53, by the run flag, which an inspection looks at first. -/
theorem inspectionShowsAStoppedMachine : Obligations.InspectionShowsAStoppedMachine := by
  refine ⟨fun s h => ?_, fun s p h => if_pos h⟩
  simp [inspect, h]

end Sys2Proof.Machine

/-!
PROOFS. The invariant (10_state.md sections 4, 6 and 7, 60_exceptions.md sections 1 and 2): it holds at reset, and each
case of a step and each transaction of the host keeps it.
-/

namespace Sys2Proof.Machine

/-- A condition that is raised is one its report agrees with (R138, R151, R152). -/
theorem State.Raises.sound {s : State} {c : Condition} (h : s.Raises c) : Report.Sound ⟨c, s.pc, s.readMem s.pc⟩ := by
  cases c with
  | invalidInstruction => exact h
  | divideByZero => obtain ⟨hbyte, -⟩ := h; exact hbyte

/-- The two conditions record different reasons (R154). -/
theorem Condition.reason_injective : ∀ {c d : Condition}, c.reason = d.reason → c = d
  | .invalidInstruction, .invalidInstruction, _ => rfl
  | .divideByZero, .divideByZero, _ => rfl

/-- A state that shows no fatal reason has no report to account for. -/
theorem fatal_reported_of_reason {s : State} (h : ∀ c : Condition, s.reason ≠ c.reason) :
    ∀ c : Condition, s.reason = c.reason → ∃ r, s.reports.getLast? = some r ∧ r.kind = c ∧ r.pc = s.pc :=
  fun c hc => absurd hc (h c)

/-- The reasons that no condition records (R154). -/
theorem Condition.none_ne_reason (c : Condition) : Reason.none ≠ c.reason := by cases c <;> nofun
theorem Condition.halt_ne_reason (c : Condition) : Reason.halt ≠ c.reason := by cases c <;> nofun
theorem Condition.externalStop_ne_reason (c : Condition) : Reason.externalStop ≠ c.reason := by cases c <;> nofun

/-- Settles O55, by the reset values. -/
theorem invariantHoldsAtReset : Obligations.InvariantHoldsAtReset where
  mem_wf := Memory.wf_reset
  sp_eq := rfl
  running_none := nofun
  fatal_reported := fatal_reported_of_reason Condition.none_ne_reason
  reports_sound := nofun

section
variable {s : State}

/-- Raising a condition for its cause keeps the invariant: its report is the last one, at `pc`, and sound. -/
theorem State.Inv.raise (hinv : s.Inv) {c : Condition} (h : s.Raises c) : (s.raise c).Inv where
  mem_wf := hinv.mem_wf
  sp_eq := hinv.sp_eq
  running_none := nofun
  fatal_reported d hd := ⟨⟨c, s.pc, s.readMem s.pc⟩, by simp, Condition.reason_injective hd, rfl⟩
  reports_sound := by
    rw [State.raise_reports]
    intro r hr
    obtain hr | hr := List.mem_append.mp hr
    · exact hinv.reports_sound r hr
    · obtain rfl := List.mem_singleton.mp hr
      exact h.sound

/-- A stop for a reason that no condition records keeps the invariant. -/
theorem State.Inv.halt (hinv : s.Inv) {q : Reason} (hq : ∀ c : Condition, q ≠ c.reason) : (s.halt q).Inv where
  mem_wf := hinv.mem_wf
  sp_eq := hinv.sp_eq
  running_none := nofun
  fatal_reported := fatal_reported_of_reason hq
  reports_sound := hinv.reports_sound

/-- An instruction that completes on a running machine keeps the invariant: the reason stays NONE. -/
theorem State.Inv.completed (hinv : s.Inv) (hrun : s.run = true) {i : Instr} {t : State} (h : s.Completed i t) :
    t.Inv where
  mem_wf := h.mem_eq ▸ hinv.mem_wf
  sp_eq := h.sp_eq.trans hinv.sp_eq
  running_none _ := h.reason_eq.trans (hinv.running_none hrun)
  fatal_reported := by
    have hnone : t.reason = .none := h.reason_eq.trans (hinv.running_none hrun)
    exact fatal_reported_of_reason (hnone ▸ Condition.none_ne_reason)
  reports_sound := h.reports_eq ▸ hinv.reports_sound

/-- A memory write keeps the invariant. -/
theorem State.Inv.writeMem (hinv : s.Inv) (a v : Byte) : (s.writeMem a v).Inv where
  mem_wf := Memory.wf_write hinv.mem_wf a v
  sp_eq := hinv.sp_eq
  running_none := hinv.running_none
  fatal_reported := hinv.fatal_reported
  reports_sound := hinv.reports_sound

/-- `start` keeps the invariant: it clears the reason with the stop (R124). -/
theorem State.Inv.start (hinv : s.Inv) : s.start.Inv := by
  cases hrun : s.run with
  | true => rwa [State.start_of_running hrun]
  | false =>
    rw [State.start_of_stopped hrun]
    exact ⟨hinv.mem_wf, hinv.sp_eq, fun _ => rfl, fatal_reported_of_reason Condition.none_ne_reason, hinv.reports_sound⟩

/-- `stop` keeps the invariant: where it has an effect it is a stop for a reason of its own (R125). -/
theorem State.Inv.stop (hinv : s.Inv) : s.stop.Inv := by
  cases hrun : s.run with
  | true =>
    rw [State.stop_of_running hrun]
    exact hinv.halt Condition.externalStop_ne_reason
  | false => rwa [State.stop_of_stopped hrun]

end

/-- Settles O56: a stopped machine does not change, and each case of a running machine's step keeps the invariant. -/
theorem stepKeepsTheInvariant : Obligations.StepKeepsTheInvariant := by
  intro s t hinv h
  obtain ⟨-, rfl⟩ | ⟨hrun, h⟩ := step_cases h
  · exact hinv
  · cases stepOnce_cases h with
    | raises c hc => exact hinv.raise hc
    | halts => exact hinv.halt Condition.halt_ne_reason
    | completes op _ hop hi hdone => exact hinv.completed hrun hdone

/-- Settles O57, by cases on the transaction, each of which keeps the invariant. -/
theorem transactionsKeepTheInvariant : Obligations.TransactionsKeepTheInvariant := by
  intro e s t hinv h
  cases e with
  | reset => cases h; exact invariantHoldsAtReset
  | poke address value =>
    obtain ⟨-, -, -, rfl⟩ := poke_cases h
    exact hinv.writeMem _ _
  | start => cases h; exact hinv.start
  | stop => cases h; exact hinv.stop
  | tick => exact stepKeepsTheInvariant s t hinv h

end Sys2Proof.Machine

/-!
PROOFS. Runs of ticks (45_step_and_scheduler.md, 70_reset_and_hazards.md section 3): a stopped machine, a restarted one,
the driver that calls the step directly, two machines that differ in their data, and the programs that never stop.
-/

namespace Sys2Proof.Machine

section
variable {s t : State}

theorem runTicks_succ_of_next {n : Nat} (h : tick s = .next t) : runTicks (n + 1) s = runTicks n t := by
  rw [runTicks, h]

/-- The last of `n + 1` ticks comes after the first `n`. -/
theorem runTicks_succ_of_run {n : Nat} (h : runTicks n s = .next t) : runTicks (n + 1) s = tick t := by
  induction n generalizing s with
  | zero =>
    cases h
    rw [runTicks]
    cases tick t <;> rfl
  | succ n ih =>
    cases htick : tick s with
    | next u =>
      rw [runTicks_succ_of_next htick] at h ⊢
      exact ih h
    | fault r => rw [runTicks, htick] at h; cases h
    | refused r => rw [runTicks, htick] at h; cases h

/-- A run of `n + 1` ticks that answers begins with a tick that does. -/
theorem runTicks_succ_cases {n : Nat} (h : runTicks (n + 1) s = .next t) :
    ∃ u, step s = .next u ∧ runTicks n u = .next t := by
  cases htick : tick s with
  | next u => exact ⟨u, htick, runTicks_succ_of_next htick ▸ h⟩
  | fault r => rw [runTicks, htick] at h; cases h
  | refused r => rw [runTicks, htick] at h; cases h

end

/-- Settles O41, by induction on the number of ticks. -/
theorem stoppedMachineIsFrozen : Obligations.StoppedMachineIsFrozen := by
  intro s n hrun
  induction n with
  | zero => rfl
  | succ n ih => rw [runTicks_succ_of_next (step_of_stopped s hrun), ih]

/-! ## A restart after a stop -/

/-- A condition's cause outlasts the stop it makes: nothing it depends on has changed (R158). -/
theorem State.Raises.raise_start {s : State} {c : Condition} (h : s.Raises c) : (s.raise c).start.Raises c := by
  cases c <;> exact h

/-- Settles O47: the cause of the stop stands in memory and registers, which neither the stop nor the start changes. -/
theorem restartRepeatsTheStop : Obligations.RestartRepeatsTheStop := by
  intro s t hrun h hstopped
  obtain ⟨hstill, -⟩ | ⟨-, h⟩ := step_cases h
  · exact absurd (hrun.symm.trans hstill) nofun
  rw [step_of_run _ (State.start_run t)]
  cases stepOnce_cases h with
  | raises c hc =>
    refine ⟨_, stepOnce_of_raises hc.raise_start, rfl, rfl, rfl, rfl, rfl, fun _ => rfl, fun _ => rfl, rfl, ?_⟩
    rw [State.raise_reports s, List.drop_left]
    rfl
  | halts hbyte =>
    have hbyte' : (s.halt .halt).start.readMem (s.halt .halt).start.pc = Opcode.halt.byte := hbyte
    refine ⟨_, stepOnce_of_byte _ .halt hbyte', rfl, rfl, rfl, rfl, rfl, fun _ => rfl, fun _ => rfl, rfl, ?_⟩
    rw [State.halt_reports s, List.drop_length, List.append_nil]
    rfl
  | completes op _ hop hi hdone => exact absurd (hstopped.symm.trans (hdone.run_eq.trans hrun)) nofun

/-! ## The driver and the ticked machine -/

/-- The state with another value in the run flag. -/
def State.setRun (s : State) (b : Bool) : State := { s with run := b }

section
variable (s : State) (b : Bool)

/-! A step reads no run flag (R127), and a stop writes it whatever it was. -/

theorem State.setRun_readReg (j : Byte) : (s.setRun b).readReg j = s.readReg j := rfl
theorem State.setRun_instrAt (op : Opcode) : (s.setRun b).instrAt op = s.instrAt op := by cases op <;> rfl
theorem State.setRun_raise (c : Condition) : (s.setRun b).raise c = s.raise c := rfl

end

/-- The state as the ticked machine has it: it runs exactly where no stop reason shows. -/
def State.ticked (s : State) : State := s.setRun (decide (s.reason = .none))

section
variable {s t : State}

theorem State.ticked_of_reason (h : s.reason = .none) : s.ticked = s.setRun true := by
  rw [State.ticked, decide_eq_true h]

/-- Where no reason shows, the ticked machine is the started one (R124). -/
theorem State.start_eq_ticked (h : s.reason = .none) : s.start = s.ticked := by
  rw [State.ticked_of_reason h]
  cases hrun : s.run with
  | true => rw [State.start_of_running hrun, State.setRun, ← hrun]
  | false => rw [State.start_of_stopped hrun, State.setRun, ← h]

/-- An instruction does the same to a running machine: it stops both, or completes and keeps the reason. -/
theorem exec_setRun {i : Instr} (hreason : s.reason = .none) (h : exec i s = .next t) :
    exec i (s.setRun true) = .next t.ticked := by
  have completed : t.reason = s.reason → t.ticked = t.setRun true :=
    fun hkept => State.ticked_of_reason (hkept.trans hreason)
  cases i with
  | halt => cases h; rfl
  | div r0 r1 =>
    rw [exec_div, State.setRun_readReg]
    obtain ⟨h0, rfl⟩ | ⟨h0, rfl⟩ := exec_div_cases h
    · rw [if_pos h0, State.setRun_raise]; rfl
    · rw [if_neg h0, completed rfl]; rfl
  | _ => cases h; rw [completed rfl]; rfl

/-- A driven step where no reason shows is a tick of the ticked machine (R127). -/
theorem tick_ticked (hreason : s.reason = .none) (h : stepOnce s = .next t) : tick s.ticked = .next t.ticked := by
  rw [State.ticked_of_reason hreason]
  refine (step_of_run (s.setRun true) rfl).trans ?_
  cases hop : Opcode.ofByte? (s.readMem s.pc) with
  | none =>
    rw [stepOnce_of_raises (c := .invalidInstruction) hop] at h
    cases h
    exact stepOnce_of_raises (s := s.setRun true) (c := .invalidInstruction) hop
  | some op =>
    rw [stepOnce_of_ofByte? hop] at h
    rw [stepOnce_of_ofByte? (s := s.setRun true) hop, State.setRun_instrAt]
    exact exec_setRun hreason h

/-- `n` driven steps where no reason shows are `n` ticks of the ticked machine, by induction on `n`: a step that leaves
a reason ends the driver and stops the ticked machine. -/
theorem driveSteps_ticked {n : Nat} (hreason : s.reason = .none) :
    ∃ t, driveSteps n s = .next t ∧ runTicks n s.ticked = .next t.ticked := by
  induction n generalizing s with
  | zero => exact ⟨s, rfl, rfl⟩
  | succ n ih =>
    obtain ⟨u, hstep⟩ := stepOnce_total s
    rw [driveSteps, hstep, runTicks_succ_of_next (tick_ticked hreason hstep)]
    by_cases hu : u.reason = .none
    · obtain ⟨t, hdrive, hticks⟩ := ih hu
      exact ⟨t, (if_pos hu).trans hdrive, hticks⟩
    · exact ⟨u, if_neg hu, stoppedMachineIsFrozen u.ticked n (decide_eq_false hu)⟩

end

/-- Settles O48: `start` makes the ticked machine, which differs from the driven one in the run flag only. -/
theorem driverAndTicksAgree : Obligations.DriverAndTicksAgree := by
  intro s n hreason
  obtain ⟨t, hdrive, hticks⟩ := driveSteps_ticked (n := n) hreason
  refine ⟨t, t.ticked, hdrive, ?_, rfl, rfl, rfl, rfl, rfl, rfl, rfl, rfl, decide_eq_true_iff⟩
  rw [runFor, State.start_eq_ticked hreason, hticks]

/-! ## Two machines that differ in their data -/

/-- Two machines agree on what decides the path: memory, `pc`, `cur` and `run`. -/
structure State.SameControl (s₁ s₂ : State) : Prop where
  mem_eq : s₁.mem = s₂.mem
  pc_eq : s₁.pc = s₂.pc
  cur_eq : s₁.cur = s₂.cur
  run_eq : s₁.run = s₂.run

/-- The second state has no DivideByZero report beyond those of the first. -/
def State.NoZeroDivisor (s t : State) : Prop := ∀ r ∈ t.reports.drop s.reports.length, r.kind ≠ .divideByZero

section
variable {s₁ s₂ t₁ t₂ : State}

theorem State.SameControl.readMem_eq (h : s₁.SameControl s₂) (a : Byte) : s₁.readMem a = s₂.readMem a :=
  State.readMem_congr h.mem_eq a

theorem State.SameControl.instrAt_eq (h : s₁.SameControl s₂) (op : Opcode) : s₁.instrAt op = s₂.instrAt op := by
  cases op <;> simp only [State.instrAt, h.readMem_eq, h.pc_eq]

/-- A raised DivideByZero is a new report. -/
theorem not_noZeroDivisor_raise (s : State) : ¬ s.NoZeroDivisor (s.raise .divideByZero) := by
  intro h
  have hnew := h ⟨.divideByZero, s.pc, s.readMem s.pc⟩ (by simp)
  exact hnew rfl

/-- One instruction keeps the agreement of two machines on their path, unless one has a zero divisor. -/
theorem exec_sameControl {i : Instr} (h : s₁.SameControl s₂) (h₁ : exec i s₁ = .next t₁) (h₂ : exec i s₂ = .next t₂)
    (hz₁ : s₁.NoZeroDivisor t₁) (hz₂ : s₂.NoZeroDivisor t₂) : t₁.SameControl t₂ := by
  have hmem : t₁.mem = t₂.mem := by rw [exec_mem h₁, exec_mem h₂, h.mem_eq]
  have hcur : t₁.cur = t₂.cur := by
    rw [selectorWrittenOnlyBySetAndInit.1 i s₁ t₁ h₁, selectorWrittenOnlyBySetAndInit.1 i s₂ t₂ h₂, h.cur_eq]
  obtain ⟨rfl, rfl⟩ | ⟨-, -, -, -, rfl⟩ | ⟨hi, hdone₁⟩ := exec_cases h₁
  · cases h₂
    exact ⟨hmem, h.pc_eq, hcur, rfl⟩
  · exact absurd hz₁ (not_noZeroDivisor_raise s₁)
  · obtain ⟨rfl, -⟩ | ⟨-, -, -, -, rfl⟩ | ⟨-, hdone₂⟩ := exec_cases h₂
    · exact absurd rfl hi
    · exact absurd hz₂ (not_noZeroDivisor_raise s₂)
    · exact ⟨hmem, by rw [hdone₁.pc_eq, hdone₂.pc_eq, h.pc_eq], hcur, by rw [hdone₁.run_eq, hdone₂.run_eq, h.run_eq]⟩

/-- One step keeps the agreement of two machines on their path, unless one has a zero divisor: they stand at the same
instruction, or both at an unknown opcode. -/
theorem stepOnce_sameControl (h : s₁.SameControl s₂) (h₁ : stepOnce s₁ = .next t₁) (h₂ : stepOnce s₂ = .next t₂)
    (hz₁ : s₁.NoZeroDivisor t₁) (hz₂ : s₂.NoZeroDivisor t₂) : t₁.SameControl t₂ := by
  have hbyte : s₁.readMem s₁.pc = s₂.readMem s₂.pc := by rw [h.readMem_eq, h.pc_eq]
  cases hop : Opcode.ofByte? (s₁.readMem s₁.pc) with
  | none =>
    have hop₂ : Opcode.ofByte? (s₂.readMem s₂.pc) = none := hbyte ▸ hop
    rw [stepOnce_of_raises (c := .invalidInstruction) hop] at h₁
    rw [stepOnce_of_raises (c := .invalidInstruction) hop₂] at h₂
    cases h₁
    cases h₂
    exact ⟨h.mem_eq, h.pc_eq, h.cur_eq, rfl⟩
  | some op =>
    have hop₂ : Opcode.ofByte? (s₂.readMem s₂.pc) = some op := hbyte ▸ hop
    rw [stepOnce_of_ofByte? hop] at h₁
    rw [stepOnce_of_ofByte? hop₂, ← h.instrAt_eq op] at h₂
    exact exec_sameControl h h₁ h₂ hz₁ hz₂

/-- So does one tick: both machines run, or neither does. -/
theorem step_sameControl (h : s₁.SameControl s₂) (h₁ : step s₁ = .next t₁) (h₂ : step s₂ = .next t₂)
    (hz₁ : s₁.NoZeroDivisor t₁) (hz₂ : s₂.NoZeroDivisor t₂) : t₁.SameControl t₂ := by
  cases hrun : s₁.run with
  | false =>
    rw [step_of_stopped s₁ hrun] at h₁
    rw [step_of_stopped s₂ (h.run_eq ▸ hrun)] at h₂
    cases h₁
    cases h₂
    exact h
  | true =>
    rw [step_of_run s₁ hrun] at h₁
    rw [step_of_run s₂ (h.run_eq ▸ hrun)] at h₂
    exact stepOnce_sameControl h h₁ h₂ hz₁ hz₂

/-- A run of ticks takes nothing from the reports (R23). -/
theorem runTicks_reports {n : Nat} {s t : State} (h : runTicks n s = .next t) : s.reports <+: t.reports := by
  induction n generalizing s with
  | zero => cases h; exact ⟨[], List.append_nil _⟩
  | succ n ih =>
    obtain ⟨u, hstep, hrest⟩ := runTicks_succ_cases h
    exact (step_traces hstep).2.trans (ih hrest)

/-- Where a tick and the ticks after it add no DivideByZero report, neither part does. -/
theorem State.NoZeroDivisor.split {n : Nat} {s u t : State} (h : s.NoZeroDivisor t) (hstep : step s = .next u)
    (hrest : runTicks n u = .next t) : s.NoZeroDivisor u ∧ u.NoZeroDivisor t := by
  obtain ⟨-, first, hfirst⟩ := step_traces hstep
  obtain ⟨later, hlater⟩ := runTicks_reports hrest
  rw [State.NoZeroDivisor, ← hlater, ← hfirst, List.append_assoc, List.drop_left] at h
  refine ⟨fun r hr => h r ?_, fun r hr => h r ?_⟩
  · rw [← hfirst, List.drop_left] at hr
    exact List.mem_append_left later hr
  · rw [← hlater, List.drop_left] at hr
    exact List.mem_append_right first hr

end

/-- Settles O49, by induction on the number of ticks. -/
theorem controlFlowIgnoresData : Obligations.ControlFlowIgnoresData := by
  intro n s₁ s₂ t₁ t₂ hmem hpc hcur hrun h₁ h₂ hz₁ hz₂
  have hsame : s₁.SameControl s₂ := ⟨hmem, hpc, hcur, hrun⟩
  clear hmem hpc hcur hrun
  induction n generalizing s₁ s₂ with
  | zero =>
    cases h₁
    cases h₂
    exact ⟨hsame.mem_eq, hsame.pc_eq, hsame.cur_eq, hsame.run_eq⟩
  | succ n ih =>
    obtain ⟨u₁, hstep₁, hrest₁⟩ := runTicks_succ_cases h₁
    obtain ⟨u₂, hstep₂, hrest₂⟩ := runTicks_succ_cases h₂
    obtain ⟨hfirst₁, hlater₁⟩ := State.NoZeroDivisor.split hz₁ hstep₁ hrest₁
    obtain ⟨hfirst₂, hlater₂⟩ := State.NoZeroDivisor.split hz₂ hstep₂ hrest₂
    exact ih u₁ u₂ hrest₁ hrest₂ hlater₁ hlater₂ (step_sameControl hsame hstep₁ hstep₂ hfirst₁ hfirst₂)

/-! ## Programs that never stop -/

/-- A step goes on to an address: it keeps memory and does not stop the machine. -/
def State.GoesTo (s : State) (a : Byte) : Prop :=
  ∃ t, stepOnce s = .next t ∧ t.run = s.run ∧ t.mem = s.mem ∧ t.pc = a

section
variable {s : State}

/-- A step at an entry other than HALT and DIV completes and goes on by the instruction's own step (R131). -/
theorem goesTo_of_byte {op : Opcode} (hbyte : s.readMem s.pc = op.byte) (hhalt : op ≠ .halt) (hdiv : op ≠ .div) :
    s.GoesTo ((s.instrAt op).pcAfter s.pc) := by
  obtain ⟨t, ht⟩ := exec_total (s.instrAt op) s
  refine ⟨t, (stepOnce_of_byte s op hbyte).trans ht, ?_⟩
  obtain ⟨hi, -⟩ | ⟨r0, r1, hi, -, -⟩ | ⟨-, hdone⟩ := exec_cases ht
  · exact absurd ((s.opcode_instrAt op).symm.trans (congrArg Instr.opcode hi)) hhalt
  · exact absurd ((s.opcode_instrAt op).symm.trans (congrArg Instr.opcode hi)) hdiv
  · exact ⟨hdone.run_eq, hdone.mem_eq, hdone.pc_eq⟩

/-- INIT, PRN, INC and PUSH go on to the next address (R175). -/
theorem goesTo_next (h : s.readMem s.pc ∈ ([0x01, 0x06, 0x0B, 0x19] : List Byte)) : s.GoesTo (s.pc + 1) := by
  simp only [List.mem_cons, List.not_mem_nil, or_false] at h
  obtain h | h | h | h := h
  · exact goesTo_of_byte (op := .init) h nofun nofun
  · exact goesTo_of_byte (op := .prn) h nofun nofun
  · exact goesTo_of_byte (op := .inc) h nofun nofun
  · exact goesTo_of_byte (op := .push) h nofun nofun

/-- DEC and POP go back to the address before (R175). -/
theorem goesTo_previous (h : s.readMem s.pc ∈ ([0x11, 0x1D] : List Byte)) : s.GoesTo (s.pc - 1) := by
  simp only [List.mem_cons, List.not_mem_nil, or_false] at h
  obtain h | h := h
  · exact goesTo_of_byte (op := .dec) h nofun nofun
  · exact goesTo_of_byte (op := .pop) h nofun nofun

/-- A running machine follows a path of addresses for ever where, with this memory, each address goes on to the next. -/
theorem runTicks_path {path : Nat → Byte} (hrun : s.run = true) (hstart : s.pc = path 0)
    (hpath : ∀ (n : Nat) (t : State), t.mem = s.mem → t.pc = path n → t.GoesTo (path (n + 1))) (n : Nat) :
    ∃ t, runTicks n s = .next t ∧ t.run = true ∧ t.mem = s.mem ∧ t.pc = path n := by
  induction n with
  | zero => exact ⟨s, rfl, hrun, rfl, hstart⟩
  | succ n ih =>
    obtain ⟨t, hticks, ht_run, ht_mem, ht_pc⟩ := ih
    obtain ⟨u, hstep, hu_run, hu_mem, hu_pc⟩ := hpath n t ht_mem ht_pc
    have htick : tick t = .next u := (step_of_run t ht_run).trans hstep
    exact ⟨u, (runTicks_succ_of_run hticks).trans htick, hu_run.trans ht_run, hu_mem.trans ht_mem, hu_pc⟩

end

/-- To and fro between `pc` and the address after it. -/
def State.toAndFro (s : State) (n : Nat) : Byte := if n % 2 = 0 then s.pc else s.pc + 1

/-- Settles O50: with this memory the first address goes on to the second, and the second back to the first. -/
theorem backStepPairNeverStops : Obligations.BackStepPairNeverStops := by
  intro s hrun hfirst hsecond n
  have hpath : ∀ (k : Nat) (t : State), t.mem = s.mem → t.pc = s.toAndFro k → t.GoesTo (s.toAndFro (k + 1)) := by
    intro k t hmem hpc
    unfold State.toAndFro at hpc ⊢
    by_cases heven : k % 2 = 0
    · have hodd : ¬ (k + 1) % 2 = 0 := by omega
      rw [if_pos heven] at hpc
      rw [if_neg hodd, ← hpc]
      apply goesTo_next
      rwa [State.readMem_congr hmem, hpc]
    · have heven' : (k + 1) % 2 = 0 := by omega
      rw [if_neg heven] at hpc
      have hback : s.pc = t.pc - 1 := by rw [hpc, BitVec.add_sub_cancel]
      rw [if_pos heven', hback]
      apply goesTo_previous
      rwa [State.readMem_congr hmem, hpc]
  obtain ⟨t, hticks, ht_run, -, ht_pc⟩ := runTicks_path hrun rfl hpath n
  exact ⟨t, hticks, ht_run, ht_pc⟩

/-- Settles O51: with this memory every address goes on to the next. -/
theorem advancingMemoryIsRunRoundForEver : Obligations.AdvancingMemoryIsRunRoundForEver := by
  intro s hrun hall n
  have hpath : ∀ (k : Nat) (t : State), t.mem = s.mem → t.pc = s.pc + BitVec.ofNat 8 k →
      t.GoesTo (s.pc + BitVec.ofNat 8 (k + 1)) := by
    intro k t hmem hpc
    rw [BitVec.ofNat_add, ← BitVec.add_assoc, ← hpc]
    apply goesTo_next
    rw [State.readMem_congr hmem]
    exact hall t.pc
  obtain ⟨t, hticks, ht_run, ht_mem, ht_pc⟩ := runTicks_path hrun (BitVec.add_zero s.pc).symm hpath n
  refine ⟨t, hticks, ht_run, ?_, State.readMem_congr ht_mem⟩
  rw [ht_pc, BitVec.toNat_add, BitVec.toNat_ofNat, Nat.add_mod_mod]

end Sys2Proof.Machine
